-- ==== Sys2Proof/Word.lean ====
section
/-! DEFINITION. The word types of the 418: bytes of job memory, 32-bit words of the register window and
of address fields, converter codes, and rows of head dots. -/

namespace Sys2Proof

/-- A byte of job memory. -/
abbrev Byte := BitVec 8

/-- A 32-bit word: a register of the window (R16) or an address field of job memory (00_scope, Addresses). -/
abbrev Word := BitVec 32

/-- A converter code, 0..1023 (R150). -/
abbrev Code := BitVec 10

/-- A row of the head's 1280 dots; bit k is head dot k (00_scope, Geometry). -/
abbrev Dots := BitVec 1280

/-- A media position, counted modulo 2^32 (R129). -/
abbrev Position := BitVec 32

end Sys2Proof
end

