-- ==== Sys2Proof/Syntax.lean ====
section
/-! DEFINITION. The commands of the 418: one constructor for each row of spec/opcode_table.json. A host
command is a write to the register window; an event is an arrival, an expiry or a completion that the
rules name. The table gives the rows no operand fields; the operands here are what the rule of each row
needs from outside the part (log entry 1). -/

namespace Sys2Proof

/-- The two debounced switch inputs (R160). -/
inductive Switch where
  | headClosed
  | taken
  deriving DecidableEq, Repr

/-- What the host has written into job memory since the last burst was served, oldest first: pairs of a
byte address and a byte. The 418 sees host writes only through its own reads (01_job_memory, opening),
so they are given with the burst that could see or overwrite them (log entry 2). -/
abbrev HostWrites := List (Nat × Byte)

/-- The commands, in the order of spec/opcode_table.json. -/
inductive Instr where
  /-- AREA_WRITE: a 32-bit host write of `value` to AREA (R1). -/
  | areaWrite (value : Word)
  /-- START (R177). -/
  | start
  /-- STOP (R42). -/
  | stop
  /-- LOOK (R24). -/
  | look
  /-- RESUME (R180). -/
  | resume
  /-- CANCEL_TICKET (R39). -/
  | cancelTicket
  /-- CANCEL_CHAIN (R40). -/
  | cancelChain
  /-- DOT_TEST (R170). -/
  | dotTest
  /-- RESET: the soft reset (R181). -/
  | reset
  /-- UNKNOWN_COMMAND: a write to COMMAND of a value other than 1 to 8 (R16). -/
  | unknownCommand (value : Word)
  /-- EVENTS_WRITE: a 32-bit host write of `value` to EVENTS (R17). -/
  | eventsWrite (value : Word)
  /-- REGISTER_WRITE_IGNORED: a write of `value`, `width` bits wide, at window offset `offset` (R16). -/
  | registerWriteIgnored (offset : BitVec 4) (width : Nat) (value : Word)
  /-- PIN_RESET: the reset pin is asserted (R181). -/
  | pinReset (hostWrites : HostWrites)
  /-- BURST_COMPLETE: the burst in flight completes (R18). -/
  | burstComplete (hostWrites : HostWrites)
  /-- BUS_ERROR: job memory reports a bus error on the burst in flight (R20). -/
  | busError (hostWrites : HostWrites)
  /-- LOOK_TIMER_EXPIRY (R24). -/
  | lookTimerExpiry
  /-- PROMOTION (R27). -/
  | promotion
  /-- COPY_START (R31). -/
  | copyStart
  /-- COMPOSE_LINE (R55). -/
  | composeLine
  /-- LINE_TAKE (R108). -/
  | lineTake
  /-- SHIFT_COMPLETE (R108). -/
  | shiftComplete
  /-- BURN_PHASE_END (R118). -/
  | burnPhaseEnd
  /-- BURN_END (R120). -/
  | burnEnd
  /-- HEAD_LINK_GRANT (R125). -/
  | headLinkGrant
  /-- PERIOD_TIMER_EXPIRY (R130). -/
  | periodTimerExpiry
  /-- FORWARD_STEP (R131). -/
  | forwardStep
  /-- REVERSE_STEP (R141). -/
  | reverseStep
  /-- CONVERSION_COMPLETE: the conversion in flight yields `code` (R149, R150). -/
  | conversionComplete (code : Code)
  /-- ENCODER_TRANSITION: the two encoder phases now stand at these levels, high being true (R158). -/
  | encoderTransition (first second : Bool)
  /-- SWITCH_INPUT_CHANGE: a raw switch input now stands at `level`; true is head closed, or label
  present (R160). -/
  | switchInputChange (input : Switch) (level : Bool)
  /-- HEAD_CLOSED_DEBOUNCED: the raw HEAD_CLOSED level has held for 5 ms (R160). -/
  | headClosedDebounced
  /-- TAKEN_DEBOUNCED: the raw TAKEN level has held for 20 ms (R160). -/
  | takenDebounced
  /-- SUPPLY_SETTLED: the 5 ms settle completes (R162). -/
  | supplySettled
  /-- TEST_DOT_START: the dot test begins its first dot (R171). -/
  | testDotStart
  /-- DOT_SHIFT_COMPLETE: the shift of a single-dot test line completes (R171). -/
  | dotShiftComplete
  /-- TEST_PULSE_END: the Test Pulse of the dot under test ends (R171). -/
  | testPulseEnd
  /-- ENTER_STOPPED: the conditions of R43, or of R180 after STOP in HALTED, hold. -/
  | enterStopped
  /-- RESET_PIN_RELEASE: the reset pin is released (R181). -/
  | resetPinRelease
  deriving DecidableEq, Repr

end Sys2Proof
end

