-- ==== Sys2Proof/Config.lean ====
section
/-! DEFINITION. What the part fixes once for all (the manual's fixed numbers and durations, in
microseconds) and the free values: what the manual leaves open, as constants without a body. -/

namespace Sys2Proof.Config

/-- The first byte address that no access may reach (R18). -/
def memoryReach : Nat := 0x1000000

/-- The burst boundary of the Memory Port (R18). -/
def burstBytes : Nat := 64

/-- Capacity of the Line Store (R66). -/
def lineStoreCapacity : Nat := 32

/-- Capacity of the Active Object List (R56). -/
def activeCapacity : Nat := 24

/-- Capacity of the Edge Queue (R136). -/
def edgeQueueCapacity : Nat := 8

/-- The Line Store level below which the arbiter and the pace rule act (R19, R134). -/
def lowLevel : Nat := 8

/-- The Line Store level at or above which the pace may rise (R134). -/
def rampLevel : Nat := 16

/-- One shift of a line to the head, in microseconds (R108). -/
def shiftTime : Nat := 32

/-- One conversion, in microseconds (R149). -/
def conversionTime : Nat := 10

/-- The settle of the head supply, in microseconds (R162). -/
def settleTime : Nat := 5000

/-- Debounce time of HEAD_CLOSED, in microseconds (R160). -/
def headDebounce : Nat := 5000

/-- Debounce time of TAKEN, in microseconds (R160). -/
def takenDebounce : Nat := 20000

/-- FREE VALUE (log entry 10). Whether byte `k` of a write burst that did not complete was written to
job memory: the burst a pin reset ended (R18), or the burst a bus error was reported on. `n` numbers
the draw. -/
opaque cutByteWritten (n k : Nat) : Bool

/-- FREE VALUE (log entry 12). What the ticket buffer holds at an offset the fetch of the ticket did
not fill (R26 reads a record's fields before it tests that the record ends within the ticket). -/
opaque staleBufferByte (offset : Nat) : Byte

end Sys2Proof.Config
end

