-- ==== Sys2Proof/Machine/State.lean ====
section
/-! DEFINITION. The state of the 418, block by block as 00_scope names the blocks, as plain data, and the
state right after reset. -/

namespace Sys2Proof.Machine

open Sys2Proof

/-! ## Reasons to stop -/

/-- Faults of the model: none. Every error the manual describes (a bus error, a fault cause, a trip, a
refused command) is an effect on the state that the part reports to its host, so no command stops the
machine. -/
inductive Fault where
  deriving DecidableEq, Repr

/-- Refusals of the model. -/
inductive Refusal where
  /-- Raised by an arm of `exec` whose command has no meaning yet; safe, since nothing follows from it. -/
  | notModelled (mnemonic : String)
  deriving DecidableEq, Repr

/-! ## Engine Control (R175 to R181) -/

/-- Engine states, in STATUS code order (Table 1-11). -/
inductive EngineState where
  | stopped | loading | running | stopping | halted
  deriving DecidableEq, Repr

/-- Fault causes (Table 1-10). -/
inductive Cause where
  | headOpen | headTrip | supplyLow | mediaOut | gapMissing | ribbonOut | memoryFault | chainAddress
  deriving DecidableEq, Repr

/-- Events, in the bit order of EVENTS (Table 1-11). -/
inductive Event where
  | ticketEnd | chainDry | halt | testEnd | hold | ribbonLow | refused
  deriving DecidableEq, Repr

/-- The last refused command (Table 1-11). -/
inductive RefusedCommand where
  | none | start | stop | look | resume | cancelTicket | cancelChain | dotTest | reset | areaWrite | unknown
  deriving DecidableEq, Repr

/-- The Fault Record's fields other than Further Causes (R178). -/
structure FaultCapture where
  cause : Cause
  stateBefore : EngineState
  ticket : Word
  copy : Nat
  line : Nat
  therm : Code
  supply : Code
  media : Code
  deriving DecidableEq, Repr

/-- Engine Control's state (10_engine_control_and_events). -/
structure EngineControl where
  state : EngineState
  /-- AREA: a 24-bit word address, bits 1:0 and 31:24 always zero (R1). -/
  area : Word
  /-- The control area address in use from LOADING to the next STOPPED (R1). -/
  areaInUse : Word
  firstCause : Option Cause
  /-- The further-causes set, in the bit order of the Fault Record (Table 1-3). -/
  further : BitVec 8
  capture : Option FaultCapture
  haltedFrom : Option EngineState
  /-- A STOP taken in HALTED waits for the writes in flight (R180). -/
  stopWaiting : Bool
  lastRefused : RefusedCommand
  /-- Pending bits of EVENTS (R17). -/
  pendingBits : BitVec 7
  /-- Enable bits of EVENTS (R17). -/
  enableBits : BitVec 7
  deriving DecidableEq, Repr

/-! ## Settings (R3 to R7) -/

inductive MediaKind where
  | gap | mark | continuous
  deriving DecidableEq, Repr

inductive PrintMethod where
  | direct | transfer
  deriving DecidableEq, Repr

inductive Presentation where
  | none | tear | peel
  deriving DecidableEq, Repr

/-- A Settings Block after its clamps (Table 1-2, R5, R6). -/
structure Settings where
  mediaKind : MediaKind
  printMethod : PrintMethod
  presentation : Presentation
  presentDistance : Nat
  sensorOffset : Nat
  topAdjust : Int
  mediaThreshold : Nat
  mediaHysteresis : Nat
  maxGapLength : Nat
  maxSearch : Nat
  calibrateLength : Nat
  /-- Eight line periods, in microseconds. -/
  speedTable : List Nat
  rampLines : Nat
  defaultSpeed : Nat
  nominalBurn : Nat
  defaultDarkness : Nat
  /-- h[0] to h[16]. -/
  heatTable : List Nat
  /-- f0 to f3. -/
  historyFactors : List Nat
  historyExpiry : Nat
  powerBudget : Nat
  holdLimit : Nat
  resumeLimit : Nat
  tripLimit : Nat
  supplyLow : Nat
  ribbonWindow : Nat
  ribbonMin : Nat
  ribbonLowCounts : Nat
  lookInterval : Nat
  testPulse : Nat
  dotCurrentMin : Nat
  dotCurrentMax : Nat
  deriving DecidableEq, Repr

/-! ## Resources and tickets (R8, R10 to R15) -/

inductive ResourceKind where
  | none | glyphs | image
  deriving DecidableEq, Repr

/-- One entry of the Resource Table copy; an unusable entry has Kind NONE (R8). -/
structure ResourceEntry where
  kind : ResourceKind
  base : Nat
  length : Nat
  deriving DecidableEq, Repr

inductive TicketKind where
  | print | feed | calibrate
  deriving DecidableEq, Repr

inductive DrawOp where
  | set | clear | flip
  deriving DecidableEq, Repr

/-- Quarter turns clockwise: 0, 90, 180 (the manual's R179) and 270 degrees. -/
inductive Rotation where
  | r0 | r90 | r179 | r270
  deriving DecidableEq, Repr

inductive Orientation where
  | picket | ladder
  deriving DecidableEq, Repr

/-- The tail of a BAR record after its clamps (R13). -/
structure BarSpec where
  orientation : Orientation
  moduleWidth : Nat
  reduction : Nat
  quietZone : Nat
  maxShift : Nat
  clearQuiet : Bool
  reverse : Bool
  barLength : Nat
  /-- Element widths in modules, first bar first. -/
  widths : List Nat
  deriving DecidableEq, Repr

/-- The tail of a SERIAL record after its clamps (R13). -/
structure SerialSpec where
  digits : Nat
  suppressLeading : Bool
  padCode : Nat
  digitBase : Nat
  step : Int
  start : Nat
  deriving DecidableEq, Repr

/-- The tail of an object record (Table 1-8). -/
inductive ObjectBody where
  | rule (width height border : Nat)
  | bar (spec : BarSpec)
  | text (spacing : Nat) (codes : List Nat)
  | serial (spec : SerialSpec)
  | image (offset width height pitch : Nat)
  deriving DecidableEq, Repr

/-- An object record of a valid ticket, after its clamps (R12, R13). -/
structure PrintObject where
  op : DrawOp
  x : Nat
  y : Nat
  rotation : Rotation
  magX : Nat
  magY : Nat
  resource : Nat
  body : ObjectBody
  /-- Offset of the record from the ticket's first byte. -/
  recordOffset : Nat
  deriving DecidableEq, Repr

/-- A valid ticket in a ticket buffer, with the clamps of validation applied (R10, R26). -/
structure Ticket where
  /-- The ticket's address. -/
  addr : Word
  /-- The bytes as fetched. -/
  bytes : List Byte
  kind : TicketKind
  mirror : Bool
  turn : Bool
  reprintOnFault : Bool
  feedInLabels : Bool
  copies : Nat
  labelLength : Nat
  labelWidth : Nat
  leftOffset : Nat
  /-- None when the field is 255. -/
  darkness : Option Nat
  /-- None when the field is 255. -/
  speed : Option Nat
  feedCount : Nat
  objects : List PrintObject
  deriving DecidableEq, Repr

inductive Outcome where
  | none | ok | lowContrast | noEdge | stopped | cancelled | fault
  deriving DecidableEq, Repr

inductive RefuseReason where
  | none | badKind | badSize | badObject | badGeometry | badCopies | tooManySerials | badElements | badResource
  deriving DecidableEq, Repr

/-- The states the 418 writes into a ticket (Table 1-6). -/
inductive TicketState where
  | taken | done | cancelled | refused | faulted
  deriving DecidableEq, Repr

/-- The running result of the current ticket (R11, R35). -/
structure RunningResult where
  outcome : Outcome
  refuseReason : RefuseReason
  copiesCompleted : Nat
  firstSignature : Nat
  lastSignature : Nat
  measuredPitch : Nat
  omittedObjects : Nat
  missingGlyphs : Nat
  dwellStops : Nat
  burnStretches : Nat
  badDotsUnderBars : Nat
  splitLines : Nat
  ribbonGlitches : Nat
  headTemperature : Nat
  calibrationThreshold : Nat
  calibrationHysteresis : Nat
  sensorMin : Nat
  sensorMax : Nat
  deriving DecidableEq, Repr

/-- What validation found: a Refuse Reason, or the ticket (R26). -/
inductive Verdict where
  | refused (reason : RefuseReason)
  | valid (ticket : Ticket)
  deriving DecidableEq, Repr

/-- The next-ticket buffer: empty, filling or full (02_ticket_flow, state table). -/
inductive NextBuffer where
  | empty
  | filling (addr : Word) (header : List Byte)
  | full (addr : Word) (bytes : List Byte) (verdict : Verdict)
  deriving DecidableEq, Repr

/-! ## Job Controller (R22 to R48) -/

/-- Job states, in STATUS code order (Table 1-11). -/
inductive JobState where
  | dry | ready | align | print | present | awaitTake | feeding | calibrating
  deriving DecidableEq, Repr

/-- Where a promotion stands (R27 to R29). -/
inductive PromotionStage where
  | reread | refusing | taking
  deriving DecidableEq, Repr

/-- The one chain operation in flight (R22). -/
inductive JobActivity where
  | none
  /-- A look; `again` when a trigger is remembered (R24). -/
  | look (again : Bool)
  | fetch
  | promotion (stage : PromotionStage)
  | walk
  deriving DecidableEq, Repr

/-- The end write-back of a ticket being ended (R36). -/
structure EndWriteBack where
  ticket : Ticket
  state : TicketState
  result : RunningResult
  /-- A bus error ended one of its writes; it waits for RESUME. -/
  failed : Bool
  /-- It was in flight at the entry to HALTED, and is made again after RESUME (R44). -/
  remake : Bool
  deriving DecidableEq, Repr

/-- The Job Controller's state (02_ticket_flow; the snapshot and Resource Table copy of 01_job_memory). -/
structure JobController where
  current : Option Ticket
  nextBuffer : NextBuffer
  /-- Held Ticket; 0 means Chain Head. -/
  held : Word
  jobState : JobState
  copyInHand : Nat
  result : RunningResult
  dryMark : Bool
  /-- The moment the look timer expires, or none when it is stopped. -/
  lookTimer : Option Nat
  ending : Option EndWriteBack
  activity : JobActivity
  /-- The last look read a zero link (R23). -/
  lastLookZero : Bool
  /-- A Held Ticket write failed and is issued again after RESUME (R23). -/
  heldWriteFailed : Bool
  /-- STOP met the promotion in flight (R27). -/
  promoStop : Bool
  /-- CANCEL CHAIN met the promotion in flight (R27). -/
  promoCancel : Bool
  /-- The entry to HALTED met the promotion in flight (R27). -/
  promoHalt : Bool
  /-- A chain walk is to begin once the State write it waits for has completed (R40). -/
  walkWaiting : Bool
  /-- The settings load of a copy, FEED or CALIBRATE start is in hand (R31). -/
  starting : Bool
  /-- The current ticket was faulted by the halt (R44). -/
  faulted : Bool
  /-- The copy whose composition start's Resource Table read is in hand (R32). -/
  compositionStart : Option Nat
  /-- Motion has reported the end of a calibration's phase 1 (R153). -/
  samplingReported : Bool
  snapshot : Option Settings
  lastGeneration : Option Word
  /-- The Resource Table copy, 16 entries. -/
  resources : List ResourceEntry
  deriving DecidableEq, Repr

/-! ## Memory Port (R18 to R20) -/

inductive Requester where
  | job | composer | engine
  deriving DecidableEq, Repr

/-- The start that a settings load serves (R3). -/
inductive LoadPoint where
  | loading | copyStart | dotTest | look
  deriving DecidableEq, Repr

/-- What an access of job memory is for; it says what its completion or its bus error leads to. -/
inductive Purpose where
  /-- LOADING's write of Held Ticket as 0 (R177). -/
  | loadHeld
  /-- First Generation read of a load (R4). -/
  | settingsFirst (point : LoadPoint)
  /-- Block read of a load, after the first Generation read gave `gen`. -/
  | settingsBlock (point : LoadPoint) (gen : Word)
  /-- Second Generation read of a load. -/
  | settingsSecond (point : LoadPoint) (gen : Word) (block : List Byte)
  | loadResources
  | loadBadDots
  /-- The Fault Record write of a first cause (R178). -/
  | faultRecord
  /-- A rewrite of the Fault Record for further causes (R179). -/
  | faultRewrite
  | publishMap
  | publishCount
  | publishPassed
  | publishAbandoned
  /-- A look's read of the link waited on (R23). -/
  | lookLink
  /-- A look's read of the header of the ticket at `addr` (R23). -/
  | lookHeader (addr : Word)
  /-- The rest of a ticket being fetched (R25). -/
  | fetchRest (addr : Word) (header : List Byte)
  /-- A promotion's re-read of State (R27). -/
  | promotionState
  | refuseResult
  | refuseHeld
  | refuseState
  | takenState
  /-- A Held Ticket write that nothing waits for (R23, R27, R29). -/
  | heldWrite
  | walkLink
  | walkHeader (addr : Word)
  | walkResult (addr : Word)
  | walkHeld (addr : Word)
  | walkState
  | endResult
  | endNextValue
  | endState
  /-- The Resource Table read of copy `copy`'s composition start (R32). -/
  | resourceTable (copy : Nat)
  | buildHeader
  | buildEntry
  | entryHeader
  | entryGlyph
  | source
  deriving DecidableEq, Repr

/-- Where an access lies: at an offset of the control area, or at an address. -/
inductive Location where
  | area (offset : Nat)
  | at (addr : Nat)
  deriving DecidableEq, Repr

/-- An access a requester has asked for (R18). `addr` is settled when it is issued. -/
structure Access where
  purpose : Purpose
  location : Location
  write : Bool
  length : Nat
  /-- The bytes to write, or the bytes read so far. -/
  data : List Byte
  issued : Bool
  addr : Nat
  /-- Bytes already carried. -/
  carried : Nat
  deriving DecidableEq, Repr

/-- The burst in flight (R18). -/
structure Burst where
  requester : Requester
  purpose : Purpose
  /-- First byte of the run its access asked for. -/
  start : Nat
  addr : Nat
  length : Nat
  write : Bool
  data : List Byte
  /-- Its access has been withdrawn. -/
  withdrawn : Bool
  deriving DecidableEq, Repr

/-- The Memory Port's state: the head of each queue, once issued, has the requester's one waiting burst
unless that burst is in flight (R18). -/
structure MemoryPort where
  inFlight : Option Burst
  jobQueue : List Access
  composerQueue : List Access
  engineQueue : List Access
  lastServed : Requester
  deriving DecidableEq, Repr

/-! ## Composer (R49 to R74) and the chapters of BAR, TEXT, SERIAL and IMAGE objects -/

inductive ComposerState where
  | idle | composing | waitRoom | suspended
  deriving DecidableEq, Repr

/-- The copy being composed (R50). -/
structure CopyGeometry where
  copy : Nat
  labelLength : Nat
  labelWidth : Nat
  leftOffset : Nat
  mirror : Bool
  turn : Bool
  deriving DecidableEq, Repr

/-- An object's box in label coordinates (R51). -/
structure Box where
  x : Int
  y : Int
  w : Nat
  h : Nat
  deriving DecidableEq, Repr

/-- A Pending Object List entry (R54), with the object's box. -/
structure PendingEntry where
  index : Nat
  box : Box
  firstColumn : Int
  entryLine : Nat
  leaveLine : Nat
  deriving DecidableEq, Repr

/-- A run of dots or lines, both ends included. -/
structure Span where
  first : Int
  last : Int
  deriving DecidableEq, Repr

/-- A BAR object's edge table (R83). -/
structure EdgeTable where
  bars : List Span
  quiet : List Span
  shift : Int
  score : Nat
  deriving DecidableEq, Repr

/-- A glyph set's header (R14). -/
structure GlyphHeader where
  count : Nat
  first : Nat
  height : Nat
  default : Nat
  deriving DecidableEq, Repr

/-- A glyph table entry as read (R14). -/
structure GlyphEntry where
  index : Nat
  width : Nat
  bitmapOffset : Nat
  deriving DecidableEq, Repr

/-- One character of a strip: its glyph and its strip column offset (R95, R96). -/
structure StripChar where
  glyph : GlyphEntry
  offset : Nat
  deriving DecidableEq, Repr

/-- A TEXT or SERIAL object's strip (R96). -/
structure Strip where
  base : Nat
  rows : Nat
  chars : List StripChar
  width : Nat
  height : Nat
  deriving DecidableEq, Repr

/-- The held source row or column (R58, R64). For a row, one byte list for an image, or one for each
distinct glyph of the strip; for a column, one byte list with one byte for each row. -/
structure HeldSource where
  index : Nat
  data : List (List Byte)
  deriving DecidableEq, Repr

/-- The part of an object context that its Kind adds (R58). -/
inductive ContextBody where
  | rule (border : Nat)
  | picket (table : EdgeTable)
  | ladder (table : EdgeTable)
  | strip (strip : Strip)
  | image (base offset width height pitch : Nat)
  deriving DecidableEq, Repr

/-- An object context (R58). -/
structure ObjectContext where
  index : Nat
  op : DrawOp
  box : Box
  firstColumn : Int
  entryLine : Nat
  leaveLine : Nat
  rotation : Rotation
  magX : Nat
  magY : Nat
  body : ContextBody
  held : Option HeldSource
  deriving DecidableEq, Repr

/-- A line record (R65). -/
structure LineRecord where
  dots : Dots
  copy : Nat
  line : Nat
  first : Bool
  last : Bool
  deriving DecidableEq, Repr

/-- A build of the Pending Object List that waits for a sizing read of object `index` (R52). -/
structure BuildWork where
  index : Nat
  header : Option GlyphHeader
  codesLeft : List Nat
  widths : List Nat
  /-- Indices of the objects not yet examined. -/
  todo : List Nat
  acc : List PendingEntry
  deriving DecidableEq, Repr

/-- A line whose entering waits for an entry read of the object of `entry` (R57). -/
structure EnterWork where
  entry : PendingEntry
  header : Option GlyphHeader
  /-- The glyph index of each character. -/
  glyphs : List Nat
  /-- The distinct glyph indices whose entries are still to be read. -/
  left : List Nat
  entries : List GlyphEntry
  missing : Nat
  /-- The entries of this line still to be taken. -/
  todo : List PendingEntry
  deriving DecidableEq, Repr

/-- A line whose drawing waits for a source read of object `index` (R64). -/
structure DrawWork where
  index : Nat
  sourceIndex : Nat
  /-- Reads still to be made, as address and length. -/
  left : List (Nat × Nat)
  got : List (List Byte)
  /-- Indices of the active objects still to be applied after this one. -/
  todo : List Nat
  line : Dots
  deriving DecidableEq, Repr

/-- What the Composer is doing between its reads. -/
inductive ComposerWork where
  | none
  | build (work : BuildWork)
  /-- The next line may be composed. -/
  | ready
  | enter (work : EnterWork)
  | draw (work : DrawWork)
  /-- The completed line held in WAIT_ROOM (R67). -/
  | hold (line : LineRecord)
  deriving DecidableEq, Repr

/-- The Composer's state (03_the_composer). -/
structure Composer where
  state : ComposerState
  copy : Option CopyGeometry
  pendingList : List PendingEntry
  activeList : List ObjectContext
  work : ComposerWork
  /-- The line to be composed, or being composed. -/
  nextLine : Nat
  /-- The Line Store, oldest first. -/
  store : List LineRecord
  deriving DecidableEq, Repr

/-! ## Burn Controller (R107 to R127) -/

inductive ShiftStatus where
  | unshifted
  /-- Shifting, to complete at the given moment. -/
  | shifting (done : Nat)
  | shifted
  deriving DecidableEq, Repr

inductive HeadLink where
  | held | lent
  deriving DecidableEq, Repr

/-- The burn values of R7 that the Burn Controller keeps. -/
structure BurnValues where
  nominalBurn : Nat
  heatTable : List Nat
  historyFactors : List Nat
  historyExpiry : Nat
  powerBudget : Nat
  deriving DecidableEq, Repr

/-- One burn group: its strobe segments and their count of set dots (R117). -/
structure BurnGroup where
  segments : List Nat
  count : Nat
  deriving DecidableEq, Repr

/-- A phase of a group that is still to run: phase 0 is A and phase 3 is D (R116). -/
structure BurnPhase where
  group : Nat
  phase : Nat
  time : Nat
  deriving DecidableEq, Repr

/-- The burn plan (06_burn_control, state table). -/
structure BurnPlan where
  burnTime : Nat
  /-- The phase times A, B, C and D. -/
  phases : List Nat
  groups : List BurnGroup
  /-- Class of each dot at this burn, as its two history rows (R110). -/
  previous : Dots
  before : Dots
  /-- The phase being run and the moment it ends. -/
  now : BurnPhase
  phaseEnd : Nat
  /-- The phases of nonzero time still to run. -/
  left : List BurnPhase
  deriving DecidableEq, Repr

/-- The Burn Controller's state. -/
structure BurnController where
  /-- The next-line register and its shift status. -/
  register : Option (LineRecord × ShiftStatus)
  latched : Option LineRecord
  /-- Fired marks of the line burned last. -/
  previousRow : Dots
  /-- Fired marks of the line before it. -/
  rowBefore : Dots
  lastLineStart : Option Nat
  values : BurnValues
  darkness : Nat
  /-- The plan of the burn in progress, or none when no burn is in progress. -/
  plan : Option BurnPlan
  byteSum : Nat
  runningTotal : Nat
  lastCopy : Nat
  lastLine : Nat
  link : HeadLink
  /-- The dot test waits for the head link (R125). -/
  linkRequested : Bool
  deriving DecidableEq, Repr

/-! ## Motion Controller (R128 to R148) -/

inductive MotionState where
  | still | forward | reverse | dwell
  deriving DecidableEq, Repr

inductive PeriodTimer where
  | stopped
  /-- Running with a period, to expire at the given moment. -/
  | running (period expiry : Nat)
  | expired
  deriving DecidableEq, Repr

/-- The operation in hand (R130). -/
inductive Operation where
  | none
  /-- The backfeed of an alignment; `serving` until its ticket ends by STOP (R138). -/
  | alignBack (serving : Bool)
  /-- The forward part of an alignment. -/
  | align (target : Option Position) (serving : Bool)
  /-- A print operation whose next line step is `next` of 0 to `last`. -/
  | print (next last : Nat)
  | presentation (left : Nat)
  | lineFeed (left : Nat)
  /-- The backfeed of a label feed. -/
  | labelBack (left : Nat)
  | labelFeed (left : Nat) (target : Option Position)
  /-- The sampling phase of a calibration. -/
  | sampling (left : Nat)
  /-- Between the sampling phase and the edge search of a calibration. -/
  | sampled
  /-- The edge search of a calibration, with the target and the pitch once the second edge is queued. -/
  | edgeSearch (target : Option Position) (pitch : Nat)
  deriving DecidableEq, Repr

/-- The motion values (R7, R135). -/
structure MotionValues where
  mediaKind : MediaKind
  presentation : Presentation
  presentDistance : Nat
  sensorOffset : Nat
  topAdjust : Int
  maxGapLength : Nat
  maxSearch : Nat
  calibrateLength : Nat
  speedTable : List Nat
  rampLines : Nat
  defaultSpeed : Nat
  target : Nat
  deriving DecidableEq, Repr

/-- The Motion Controller's state. -/
structure MotionController where
  state : MotionState
  operation : Operation
  /-- The motor phase driven last, counted in motor steps: a forward step adds 1 and a reverse step subtracts 1
  (R163; log entry 38). -/
  phase : Int
  position : Position
  speedStep : Nat
  rampCount : Nat
  timer : PeriodTimer
  stretchMark : Bool
  /-- Top-edge positions, oldest first. -/
  edgeQueue : List Position
  lastEdge : Option Position
  measuredPitch : Nat
  presentedLines : Nat
  gapRun : Nat
  searchCount : Nat
  values : MotionValues
  deriving DecidableEq, Repr

/-! ## Sensor Scanner (R149 to R161) -/

inductive Channel where
  | therm | media | supply | current
  deriving DecidableEq, Repr

/-- A waiting request (R152). -/
inductive Request where
  | media (position : Position) (marked : Bool)
  | current
  deriving DecidableEq, Repr

/-- The conversion in flight (R149): its channel, with what a MEDIA conversion carries. -/
inductive Conversion where
  | therm
  | supply
  | media (position : Position) (marked : Bool)
  | current
  deriving DecidableEq, Repr

inductive Converter where
  | idle
  /-- Converting, to complete at the given moment. -/
  | converting (what : Conversion) (done : Nat)
  deriving DecidableEq, Repr

/-- Which channel the idle rotation converts next (R151). -/
inductive Rotating where
  | therm | supply
  deriving DecidableEq, Repr

inductive MediaState where
  | unknown | label | gap
  deriving DecidableEq, Repr

inductive Side where
  | label | gap
  deriving DecidableEq, Repr

/-- The media values the Scanner keeps (08_sensor_scanner, state table). -/
structure MediaValues where
  mediaKind : MediaKind
  threshold : Nat
  hysteresis : Nat
  printMethod : PrintMethod
  ribbonWindow : Nat
  ribbonMin : Nat
  ribbonLowCounts : Nat
  deriving DecidableEq, Repr

/-- A switch input (R160); true is CLOSED, or LABEL PRESENT. -/
structure SwitchInput where
  debounced : Bool
  raw : Bool
  /-- The moment of the last raw change. -/
  since : Nat
  deriving DecidableEq, Repr

/-- The Sensor Scanner's state. -/
structure SensorScanner where
  converter : Converter
  waiting : List Request
  rotation : Rotating
  therm : Code
  media : Code
  supply : Code
  current : Code
  /-- Least and greatest sample values, or empty. -/
  sampling : Option (Nat × Nat)
  mediaState : MediaState
  candidate : Option (Side × Position)
  calibratedThreshold : Nat
  calibratedHysteresis : Nat
  values : MediaValues
  ribbonCount : Int
  windowLines : Nat
  lowMark : Bool
  /-- The last levels of the two encoder phases, high being true. -/
  phaseFirst : Bool
  phaseSecond : Bool
  headClosed : SwitchInput
  taken : SwitchInput
  deriving DecidableEq, Repr

/-! ## Protection Unit (R162 to R174) -/

inductive SupplyState where
  | off
  /-- Settling, to complete at the given moment. -/
  | settling (done : Nat)
  | on
  deriving DecidableEq, Repr

inductive Gate where
  | closed | opened
  deriving DecidableEq, Repr

inductive ThermalState where
  | normal | hold
  deriving DecidableEq, Repr

structure ProtectionLimits where
  hold : Nat
  resume : Nat
  trip : Nat
  supplyLow : Nat
  deriving DecidableEq, Repr

/-- The pulse of the dot under test (R171). -/
inductive TestPulse where
  | waiting
  /-- On, to end at the given moment. -/
  | on (done : Nat)
  | ended
  deriving DecidableEq, Repr

/-- The step in hand of a dot test (R170, R171). -/
inductive TestStep where
  /-- Waiting for the gate and the head link. -/
  | waiting
  /-- Shifting the single-dot line, to complete at the given moment. -/
  | shifting (done : Nat)
  /-- The line is latched; the pulse, and the code once the conversion has completed. -/
  | measuring (pulse : TestPulse) (code : Option Code)
  deriving DecidableEq, Repr

structure TestProgress where
  pulse : Nat
  currentMin : Nat
  currentMax : Nat
  dot : Nat
  newSet : Dots
  step : TestStep
  deriving DecidableEq, Repr

/-- The test state (R170): `starting` while the settings load of a DOT TEST command is in hand. -/
inductive TestState where
  | idle
  | starting
  | testing (progress : TestProgress)
  deriving DecidableEq, Repr

/-- The test report of STATUS (R16). -/
inductive TestReport where
  | idle | running | passed | abandoned
  deriving DecidableEq, Repr

/-- The Protection Unit's state. -/
structure ProtectionUnit where
  supply : SupplyState
  gate : Gate
  tripLatch : Bool
  thermal : ThermalState
  limits : Option ProtectionLimits
  lowRun : Nat
  badDots : Dots
  test : TestState
  report : TestReport
  deriving DecidableEq, Repr

/-! ## The whole part -/

/-- The eight blocks of the 418 and the model's clock. -/
structure Chip where
  /-- The model's clock, in microseconds (log entry 4). -/
  now : Nat
  engine : EngineControl
  port : MemoryPort
  job : JobController
  composer : Composer
  burn : BurnController
  motion : MotionController
  scanner : SensorScanner
  protection : ProtectionUnit
  deriving DecidableEq, Repr

/-- The machine: the 418, the job memory it shares with the host, its reset pin, and the commands that
wait, first in, first out. -/
structure State where
  chip : Chip
  /-- Job memory, as the bytes that are not 0, by rising address (log entry 2). -/
  memory : List Host.Cell
  /-- The reset pin is asserted (R181). -/
  resetPin : Bool
  /-- A soft reset waits for the burst in flight (R18). -/
  resetWaiting : Bool
  /-- The model's own field: how many free values have been drawn (log entry 10). -/
  freeDraws : Nat
  /-- The commands that wait. -/
  pending : List Instr
  deriving DecidableEq, Repr

/-! ## Reset values -/

/-- Engine Control after a reset that leaves AREA at `area` and the event enables at `enables` (R181). -/
def EngineControl.resetWith (area : Word) (enables : BitVec 7) : EngineControl where
  state := .stopped
  area := area
  areaInUse := area
  firstCause := none
  further := 0
  capture := none
  haltedFrom := none
  stopWaiting := false
  lastRefused := .none
  pendingBits := 0
  enableBits := enables

/-- No burst in flight or waiting; the first rotation begins at the Job Controller (R18, R19). -/
def MemoryPort.reset : MemoryPort where
  inFlight := none
  jobQueue := []
  composerQueue := []
  engineQueue := []
  lastServed := .engine

/-- A running result of all zero, with Outcome and Refuse Reason NONE (R29). -/
def RunningResult.zero : RunningResult where
  outcome := .none
  refuseReason := .none
  copiesCompleted := 0
  firstSignature := 0
  lastSignature := 0
  measuredPitch := 0
  omittedObjects := 0
  missingGlyphs := 0
  dwellStops := 0
  burnStretches := 0
  badDotsUnderBars := 0
  splitLines := 0
  ribbonGlitches := 0
  headTemperature := 0
  calibrationThreshold := 0
  calibrationHysteresis := 0
  sensorMin := 0
  sensorMax := 0

/-- An entry of Kind NONE (R8). -/
def ResourceEntry.unusable : ResourceEntry where
  kind := .none
  base := 0
  length := 0

/-- The Job Controller after either reset (R48; the snapshot and Resource Table copy after 1.2 and R8). -/
def JobController.reset : JobController where
  current := none
  nextBuffer := .empty
  held := 0
  jobState := .dry
  copyInHand := 0
  result := .zero
  dryMark := false
  lookTimer := none
  ending := none
  activity := .none
  lastLookZero := false
  heldWriteFailed := false
  promoStop := false
  promoCancel := false
  promoHalt := false
  walkWaiting := false
  starting := false
  faulted := false
  compositionStart := none
  samplingReported := false
  snapshot := none
  lastGeneration := none
  resources := List.replicate 16 .unusable

/-- The Composer after either reset (R74). -/
def Composer.reset : Composer where
  state := .idle
  copy := none
  pendingList := []
  activeList := []
  work := .none
  nextLine := 0
  store := []

/-- The burn values of a Settings Block whose every field is at the lower end of its range (R112). -/
def BurnValues.lowest : BurnValues where
  nominalBurn := 50
  heatTable := List.replicate 17 0
  historyFactors := List.replicate 4 0
  historyExpiry := 1
  powerBudget := 320

/-- The Burn Controller after either reset (R127). -/
def BurnController.reset : BurnController where
  register := none
  latched := none
  previousRow := 0
  rowBefore := 0
  lastLineStart := none
  values := .lowest
  darkness := 0
  plan := none
  byteSum := 0
  runningTotal := 0
  lastCopy := 0
  lastLine := 0
  link := .held
  linkRequested := false

/-- The motion values after either reset (R148). -/
def MotionValues.lowest : MotionValues where
  mediaKind := .gap
  presentation := .none
  presentDistance := 0
  sensorOffset := 0
  topAdjust := -64
  maxGapLength := 2
  maxSearch := 64
  calibrateLength := 256
  speedTable := List.replicate 8 250
  rampLines := 1
  defaultSpeed := 0
  target := 0

/-- The Motion Controller after either reset (R148), but for the motor phase, which a reset holds. -/
def MotionController.reset : MotionController where
  state := .still
  operation := .none
  phase := 0
  position := 0
  speedStep := 0
  rampCount := 0
  timer := .stopped
  stretchMark := false
  edgeQueue := []
  lastEdge := none
  measuredPitch := 0
  presentedLines := 0
  gapRun := 0
  searchCount := 0
  values := .lowest

/-- The media values after either reset (R161). -/
def MediaValues.lowest : MediaValues where
  mediaKind := .gap
  threshold := 0
  hysteresis := 0
  printMethod := .direct
  ribbonWindow := 16
  ribbonMin := 1
  ribbonLowCounts := 0

/-- The Sensor Scanner after either reset, with the raw levels that stand at the inputs (R161). The
debounced states, and the last levels of the encoder phases, are those levels. The spec gives no moment from
which those levels count as held: the model's choice is the moment of the reset (log entry 39). -/
def SensorScanner.resetWith (now : Nat) (first second head taken : Bool) : SensorScanner where
  converter := .idle
  waiting := []
  rotation := .therm
  therm := 0
  media := 0
  supply := 0
  current := 0
  sampling := none
  mediaState := .unknown
  candidate := none
  calibratedThreshold := 512
  calibratedHysteresis := 32
  values := .lowest
  ribbonCount := 0
  windowLines := 0
  lowMark := false
  phaseFirst := first
  phaseSecond := second
  headClosed := { debounced := head, raw := head, since := now }
  taken := { debounced := taken, raw := taken, since := now }

/-- The Protection Unit after either reset (R174). -/
def ProtectionUnit.reset : ProtectionUnit where
  supply := .off
  gate := .closed
  tripLatch := false
  thermal := .normal
  limits := none
  lowRun := 0
  badDots := 0
  test := .idle
  report := .idle

/-- The part after a reset that leaves AREA, the event enables, the clock, the motor phase and the raw input
levels as given (R181; R148: the phase outputs are held). -/
def Chip.resetWith (area : Word) (enables : BitVec 7) (now : Nat) (phase : Int) (first second head taken : Bool) :
    Chip where
  now := now
  engine := .resetWith area enables
  port := .reset
  job := .reset
  composer := .reset
  burn := .reset
  motion := { MotionController.reset with phase := phase }
  scanner := .resetWith now first second head taken
  protection := .reset

/-- The machine right after a pin reset: every field at the value R181 and the chapters it names state
for a pin reset. The pin is released, so the converter has left IDLE at once for its first THERM conversion (R149,
R161). The raw input levels (log entry 9) are the model's choice: head open, no label, both encoder phases low; so is
the motor phase 0 (log entry 38). -/
def State.reset : State where
  chip :=
    let c := Chip.resetWith 0 0 0 0 false false false false
    { c with scanner := { c.scanner with converter := .converting .therm Config.conversionTime } }
  memory := []
  resetPin := false
  resetWaiting := false
  freeDraws := 0
  pending := []

end Sys2Proof.Machine
end

