-- ==== Sys2Proof/Machine/Operands.lean ====
section
/-! DEFINITION. The field and byte-order helpers of the records in job memory: little-endian fields
(00_scope, Numbers), clamps, signed fields, bit maps of head dots, and saturating counts. -/

namespace Sys2Proof.Machine

open Sys2Proof

/-- The little-endian value of a byte list. -/
def leNat : List Byte → Nat
  | [] => 0
  | b :: bs => b.toNat + 256 * leNat bs

/-- The `n` little-endian bytes of `v`. -/
def leBytes : Nat → Nat → List Byte
  | 0, _ => []
  | n + 1, v => BitVec.ofNat 8 v :: leBytes n (v / 256)

/-- The `n`-byte field at `off` of a record that was read whole. -/
def field (bytes : List Byte) (off n : Nat) : Nat := leNat ((bytes.drop off).take n)

/-- One byte of a ticket buffer; beyond the fetched bytes it is what the buffer happens to hold. -/
def bufferByte (bytes : List Byte) (off : Nat) : Byte :=
  match bytes[off]? with
  | some b => b
  | none => Config.staleBufferByte off

/-- The `n`-byte field at `off` of a ticket buffer. -/
def bufferField (bytes : List Byte) (off n : Nat) : Nat :=
  leNat ((List.range n).map fun k => bufferByte bytes (off + k))

/-- Two's complement reading of an `n`-bit field. -/
def signedField (n v : Nat) : Int := (BitVec.ofNat n v).toInt

/-- Clamp to `lo..hi` (00_scope, Numbers). -/
def clamp (lo hi v : Nat) : Nat := max lo (min hi v)

/-- Clamp of a signed value. -/
def clampInt (lo hi v : Int) : Int := max lo (min hi v)

/-- Least number of bytes that hold `bits` bits. -/
def bytesFor (bits : Nat) : Nat := (bits + 7) / 8

/-- A count that stops at 255. -/
def saturate8 (n : Nat) : Nat := min 255 n

/-- A count that stops at 65535. -/
def saturate16 (n : Nat) : Nat := min 65535 n

/-- The head dots at which `f` holds. -/
def dotsOf (f : Nat → Bool) : Dots := BitVec.ofFnLE fun i : Fin 1280 => f i

/-- Whether head dot `d` is in a row. -/
def hasDot (row : Dots) (d : Nat) : Bool := row.getLsbD d

/-- How many of the dots `0 .. n - 1` are in a row. -/
def countBelow (row : Dots) : Nat → Nat
  | 0 => 0
  | n + 1 => countBelow row n + (if row.getLsbD n then 1 else 0)

/-- How many dots are in a row. -/
def countDots (row : Dots) : Nat := countBelow row 1280

/-- How many dots of one 320-dot strobe segment are in a row. -/
def countSegment (row : Dots) (segment : Nat) : Nat := countDots (row &&& dotsOf fun d => d / 320 == segment)

/-- Bit `k` of a row of bytes, bit 0 being the most significant bit of the first byte. -/
def bitOfRow (bytes : List Byte) (k : Nat) : Bool := (bytes.getD (k / 8) 0).getMsbD (k % 8)

/-- The 160 bytes of a row of dots: byte k holds dots 8k to 8k + 7, dot 8k as its most significant bit
(01_job_memory 1.4, R121). -/
def rowBytes (row : Dots) : List Byte :=
  (List.range 160).map fun k => BitVec.ofFnLE fun i : Fin 8 => row.getLsbD (8 * k + (7 - i))

/-- The row of dots that 160 bytes describe (R9). -/
def rowOfBytes (bytes : List Byte) : Dots := dotsOf fun d => bitOfRow bytes d

/-- Position `a` is after position `b` (R129). -/
def isAfter (a b : Position) : Bool := decide (0 < (a - b).toInt)

/-- Replace the first element of a list. -/
def setHead {α : Type} (a : α) : List α → List α
  | [] => []
  | _ :: as => a :: as

end Sys2Proof.Machine
end

