-- ==== Sys2Proof/Machine/Tickets.lean ====
section
/-! DEFINITION. Ticket records: validation and its clamps (R10, R12, R13, R26), the result block as written
(R11, Table 1-5), and serial values (R98 to R101). -/

namespace Sys2Proof.Machine

open Sys2Proof

/-- A defined ticket Kind (Table 1-5). -/
def ticketKindOf : Nat → Option TicketKind
  | 1 => some .print
  | 2 => some .feed
  | 3 => some .calibrate
  | _ => none

/-- A defined Op (Table 1-7). -/
def drawOpOf : Nat → Option DrawOp
  | 0 => some .set
  | 1 => some .clear
  | 2 => some .flip
  | _ => none

/-- A defined Rotation (Table 1-7). -/
def rotationOf : Nat → Option Rotation
  | 0 => some .r0
  | 1 => some .r90
  | 2 => some .r179
  | 3 => some .r270
  | _ => none

/-- A defined Orientation (Table 1-8). -/
def orientationOf : Nat → Option Orientation
  | 0 => some .picket
  | 1 => some .ladder
  | _ => none

/-- Round up to a multiple of 4. -/
def roundUp4 (n : Nat) : Nat := (n + 3) / 4 * 4

/-- The minimum length of a record of this Kind (R12); 0 for an undefined Kind. -/
def minimumRecord (kind elementCount charCount : Nat) : Nat :=
  match kind with
  | 1 => 20
  | 2 => roundUp4 (21 + elementCount)
  | 3 => roundUp4 (14 + charCount)
  | 4 => 28
  | 5 => 24
  | _ => 0

/-- Clamp of a magnification: 0 is taken as 1, above the maximum as the maximum (R12). -/
def magnification (most v : Nat) : Nat := clamp 1 most v

/-- The tail of a BAR record after its clamps (R13). -/
def barSpecOf (b : List Byte) (at0 : Nat) (orientation : Orientation) (count : Nat) : BarSpec :=
  let f := fun off n => bufferField b (at0 + off) n
  let m := clamp 1 15 (f 0x0D 1)
  { orientation := orientation
    moduleWidth := m
    reduction := min (m - 1) (min 3 (f 0x0E 1))
    quietZone := min 20 (f 0x0F 1)
    maxShift := min 15 (f 0x10 1)
    clearQuiet := (f 0x11 1).testBit 0
    reverse := (f 0x11 1).testBit 1
    barLength := clamp 1 8192 (f 0x12 2)
    widths := (List.range count).map fun k => f (0x15 + k) 1 }

/-- The tail of a SERIAL record after its clamps (R13). -/
def serialSpecOf (b : List Byte) (at0 : Nat) : SerialSpec :=
  let f := fun off n => bufferField b (at0 + off) n
  let digits := clamp 1 9 (f 0x0C 1)
  { digits := digits
    suppressLeading := (f 0x0D 1).testBit 0
    padCode := f 0x0E 1
    digitBase := f 0x0F 1
    step := clampInt (-9999) 9999 (signedField 16 (f 0x10 2))
    start := f 0x14 4 % 10 ^ digits }

/-- The tail of an IMAGE record after its clamps (R13). -/
def imageBodyOf (b : List Byte) (at0 : Nat) : ObjectBody :=
  let f := fun off n => bufferField b (at0 + off) n
  let width := clamp 1 1280 (f 0x10 2)
  .image (f 0x0C 4) width (clamp 1 8192 (f 0x12 2)) (max (bytesFor width) (f 0x14 2))

/-- An object record, checked in the order of R26 step 6 and clamped, or the first reason to refuse it.
`serials` is how many SERIAL records stand before it. A RULE or a BAR, which does not use them, holds Mag X and
Mag Y as 1 whatever its record stores (the model's choice, log entry 44). -/
def recordOf (b : List Byte) (ticketLength at0 serials : Nat) : Except RefuseReason (PrintObject × Nat) :=
  let f := fun off n => bufferField b (at0 + off) n
  let kind := f 0 1
  let length := f 2 2
  let elements := f 0x14 1
  let chars := f 0x0D 1
  let common := fun (op : DrawOp) (rotation : Rotation) (mag : Nat) (body : ObjectBody) =>
    ({ op := op, x := f 4 2, y := f 6 2, rotation := rotation
       magX := magnification mag (f 9 1), magY := magnification mag (f 0x0A 1)
       resource := f 0x0B 1, body := body, recordOffset := at0 } : PrintObject)
  match drawOpOf (f 1 1), rotationOf (f 8 1) with
  | some op, some rotation =>
    if kind = 0 ∨ 5 < kind then .error .badObject
    else if kind = 2 ∧ orientationOf (f 0x0C 1) = none then .error .badObject
    else if kind = 2 ∧ (elements % 2 = 0 ∨ 159 < elements) then .error .badElements
    else if kind = 3 ∧ (chars = 0 ∨ 200 < chars) then .error .badObject
    else if length % 4 ≠ 0 ∨ length < minimumRecord kind elements chars ∨ ticketLength < at0 + length then
      .error .badObject
    else if kind = 2 ∧ (List.range elements).any (fun k => f (0x15 + k) 1 == 0 || decide (4 < f (0x15 + k) 1)) then
      .error .badElements
    else if 3 ≤ kind ∧ 15 < f 0x0B 1 then .error .badResource
    else if kind = 4 ∧ 4 ≤ serials then .error .tooManySerials
    else match kind with
      | 1 => .ok (common op rotation 1 (.rule (clamp 1 1280 (f 0x0C 2)) (clamp 1 8192 (f 0x0E 2)) (f 0x10 1)), length)
      | 2 => .ok (common op rotation 1
          (.bar (barSpecOf b at0 ((orientationOf (f 0x0C 1)).getD .picket) elements)), length)
      | 3 => .ok (common op rotation 8
          (.text (min 15 (f 0x0C 1)) ((List.range chars).map fun k => f (0x0E + k) 1)), length)
      | 4 => .ok (common op rotation 8 (.serial (serialSpecOf b at0)), length)
      | _ => .ok (common op rotation 4 (imageBodyOf b at0), length)
  | _, _ => .error .badObject

/-- Whether an object is a SERIAL record. -/
def PrintObject.isSerial (o : PrintObject) : Bool :=
  match o.body with
  | .serial _ => true
  | _ => false

/-- The walk of the object records by Record Length (R12): `count` records from offset `at0`. -/
def recordsOf (b : List Byte) (ticketLength : Nat) : Nat → Nat → Nat → Except RefuseReason (List PrintObject)
  | 0, _, _ => .ok []
  | count + 1, at0, serials =>
    match recordOf b ticketLength at0 serials with
    | .error r => .error r
    | .ok (o, length) =>
      match recordsOf b ticketLength count (at0 + length) (serials + if o.isSerial then 1 else 0) with
      | .error r => .error r
      | .ok os => .ok (o :: os)

/-- An override of the header: 255 is none, other values are clamped (R10). -/
def overrideOf (most v : Nat) : Option Nat := if v = 255 then none else some (min most v)

/-- Validation of a fetched ticket, in the order of R26, with the clamps of R10 and R13. -/
def validate (addr : Word) (b : List Byte) : Verdict :=
  let f := bufferField b
  let length := f 8 2
  let count := f 7 1
  let flags := f 6 1
  match ticketKindOf (f 5 1) with
  | none => .refused .badKind
  | some kind =>
    if length < 64 ∨ 4096 < length ∨ length < 64 + 12 * count then .refused .badSize
    else if f 0x0C 2 < 32 ∨ 8192 < f 0x0C 2 ∨ f 0x0E 2 < 8 ∨ 1280 < f 0x10 2 + f 0x0E 2 then
      .refused .badGeometry
    else if f 0x0A 2 = 0 then .refused .badCopies
    else if 64 < count then .refused .badObject
    else match recordsOf b length count 0x40 0 with
      | .error r => .refused r
      | .ok objects => .valid
          { addr := addr, bytes := b, kind := kind
            mirror := flags.testBit 0, turn := flags.testBit 1
            reprintOnFault := flags.testBit 2, feedInLabels := flags.testBit 3
            copies := min 9999 (f 0x0A 2)
            labelLength := f 0x0C 2, labelWidth := f 0x0E 2, leftOffset := f 0x10 2
            darkness := overrideOf 30 (f 0x12 1), speed := overrideOf 7 (f 0x13 1)
            feedCount := max 1 (f 0x14 2), objects := objects }

/-- Code of an Outcome (Table 1-5). -/
def Outcome.code : Outcome → Nat
  | .none => 0
  | .ok => 1
  | .lowContrast => 2
  | .noEdge => 3
  | .stopped => 4
  | .cancelled => 5
  | .fault => 6

/-- Code of a Refuse Reason (Table 1-5). -/
def RefuseReason.code : RefuseReason → Nat
  | .none => 0
  | .badKind => 1
  | .badSize => 2
  | .badObject => 3
  | .badGeometry => 4
  | .badCopies => 5
  | .tooManySerials => 6
  | .badElements => 7
  | .badResource => 8

/-- Code of a ticket State that the 418 writes (Table 1-6). -/
def TicketState.code : TicketState → Nat
  | .taken => 3
  | .done => 4
  | .cancelled => 5
  | .refused => 6
  | .faulted => 7

/-- The 32 bytes of a result block (R11, Table 1-5); its padding is written as 0. -/
def resultBytes (r : RunningResult) : List Byte :=
  leBytes 1 r.outcome.code ++ leBytes 1 r.refuseReason.code ++ leBytes 2 r.copiesCompleted
    ++ leBytes 2 r.firstSignature ++ leBytes 2 r.lastSignature ++ leBytes 2 r.measuredPitch
    ++ leBytes 1 r.omittedObjects ++ leBytes 1 r.missingGlyphs ++ leBytes 1 r.dwellStops
    ++ leBytes 1 r.burnStretches ++ leBytes 1 r.badDotsUnderBars ++ leBytes 1 r.splitLines
    ++ leBytes 1 r.ribbonGlitches ++ leBytes 1 0 ++ leBytes 2 r.headTemperature
    ++ leBytes 2 r.calibrationThreshold ++ leBytes 1 r.calibrationHysteresis ++ leBytes 1 0
    ++ leBytes 2 r.sensorMin ++ leBytes 2 r.sensorMax ++ leBytes 4 0

/-- The serial value `advances` steps after the start (R98, R101). -/
def SerialSpec.valueAfter (s : SerialSpec) (advances : Nat) : Nat :=
  (((s.start : Int) + advances * s.step) % (10 ^ s.digits : Nat)).toNat

/-- The serial value of copy `copy` (R98). -/
def SerialSpec.valueOf (s : SerialSpec) (copy : Nat) : Nat := s.valueAfter (copy - 1)

/-- The decimal digit of `v` at place `place`. -/
def digitAt (v place : Nat) : Nat := v / 10 ^ place % 10

/-- The character codes of a SERIAL object, most significant first (R99). -/
def SerialSpec.codes (s : SerialSpec) (copy : Nat) : List Nat :=
  let v := s.valueOf copy
  (List.range s.digits).map fun k =>
    if s.suppressLeading ∧ k + 1 < s.digits ∧ v < 10 ^ (s.digits - 1 - k) then s.padCode
    else (s.digitBase + digitAt v (s.digits - 1 - k)) % 256

/-- The character codes of a TEXT or SERIAL object on a copy (R92, R99); none for other Kinds. -/
def PrintObject.codes (o : PrintObject) (copy : Nat) : List Nat :=
  match o.body with
  | .text _ codes => codes
  | .serial s => s.codes copy
  | _ => []

/-- The Next Values of a PRINT ticket's SERIAL records, by rising index: the record's offset and the
value, from the copies completed (R101). -/
def nextValues (t : Ticket) (completed : Nat) : List (Nat × Nat) :=
  t.objects.filterMap fun o =>
    match o.body with
    | .serial s => some (o.recordOffset, s.valueAfter completed)
    | _ => none

end Sys2Proof.Machine
end

