-- ==== Sys2Proof/Machine/Glyphs.lean ====
section
/-! DEFINITION. Glyph sets, strips and images (05_glyph_text_serial_fields_and_images): lookup, advances,
box sizes, the source row or column a line needs, and the dots of U. -/

namespace Sys2Proof.Machine

open Sys2Proof

/-- The header of a glyph set, from its 8 bytes (Table 1-9). -/
def glyphHeaderOf (b : List Byte) : GlyphHeader :=
  { count := field b 0 2, first := field b 2 1, height := field b 3 1, default := field b 4 1 }

/-- A glyph table entry, from its 4 bytes (Table 1-9). -/
def glyphEntryOf (index : Nat) (b : List Byte) : GlyphEntry :=
  { index := index, width := field b 0 1, bitmapOffset := field b 1 3 }

/-- Whether the glyph set is usable within a resource of `length` bytes (R14). -/
def GlyphHeader.usable (h : GlyphHeader) (length : Nat) : Bool :=
  decide (1 ≤ h.count) && decide (h.count ≤ 256) && decide (1 ≤ h.height) && decide (h.height ≤ 128)
    && decide (8 + 4 * h.count ≤ length)

/-- Whether the set carries a character code (R92). -/
def GlyphHeader.carries (h : GlyphHeader) (c : Nat) : Bool := decide (h.first ≤ c) && decide (c - h.first < h.count)

/-- Glyph lookup (R92). -/
def GlyphHeader.lookup (h : GlyphHeader) (c : Nat) : Nat :=
  if h.carries c then c - h.first else if h.default < h.count then h.default else 0

/-- A glyph's drawn width (R94). -/
def drawnWidth (stored : Nat) : Nat := min 128 stored

/-- The Spacing of an object: 0 for a SERIAL (R95). -/
def PrintObject.spacing (o : PrintObject) : Nat :=
  match o.body with
  | .text spacing _ => spacing
  | _ => 0

/-- The strip width from the drawn widths of the characters (R95). -/
def stripWidth (magX spacing : Nat) (widths : List Nat) : Nat :=
  (widths.map fun g => g * magX + spacing).sum - spacing

/-- The characters of a strip from column `at0` (R95). -/
def stripChars (magX spacing : Nat) : Nat → List GlyphEntry → List StripChar
  | _, [] => []
  | at0, e :: es =>
    { glyph := e, offset := at0 } :: stripChars magX spacing (at0 + drawnWidth e.width * magX + spacing) es

/-- Turn a strip's or an image's width and height into a box's by its Rotation (R51). -/
def turnedBox (rotation : Rotation) (x y wu hu : Nat) : Box :=
  match rotation with
  | .r0 | .r179 => { x := x, y := y, w := wu, h := hu }
  | .r90 | .r270 => { x := x, y := y, w := hu, h := wu }

/-- Whether all of a glyph's bitmap lies within a resource of `length` bytes; a glyph of width 0 has no
bitmap (R57, R94). -/
def GlyphEntry.inRange (e : GlyphEntry) (height length : Nat) : Bool :=
  decide (e.width = 0) || decide (e.bitmapOffset + height * bytesFor e.width ≤ length)

/-- The entry of a glyph index among those read. -/
def entryOf (entries : List GlyphEntry) (index : Nat) : GlyphEntry :=
  (entries.find? fun e => e.index == index).getD { index := index, width := 0, bitmapOffset := 0 }

/-- The strip formed at entry (R96). -/
def stripOf (o : PrintObject) (base : Nat) (h : GlyphHeader) (glyphs : List Nat) (entries : List GlyphEntry) : Strip :=
  let es := glyphs.map (entryOf entries)
  { base := base
    rows := h.height
    chars := stripChars o.magX o.spacing 0 es
    width := stripWidth o.magX o.spacing (es.map fun e => drawnWidth e.width)
    height := h.height * o.magY }

/-- The first occurrence of each element. -/
def distinct : List Nat → List Nat
  | [] => []
  | a :: as => a :: (distinct as).filter (· != a)

/-- The distinct glyphs of a strip that have bitmap bytes, by first occurrence: the order in which a row of them
is read, which the spec leaves open (the model's choice, log entry 43). -/
def Strip.drawnGlyphs (s : Strip) : List GlyphEntry :=
  (distinct (s.chars.map fun c => c.glyph.index)).filterMap fun i =>
    (s.chars.find? fun c => c.glyph.index == i && decide (c.glyph.width ≠ 0)).map (·.glyph)

/-- The character whose glyph covers a strip column, with its place in the strip (R62). -/
def Strip.charAt (s : Strip) (magX : Nat) (uc : Nat) : Option (Nat × StripChar) :=
  (s.chars.zipIdx.find? fun c =>
    decide (c.1.offset ≤ uc) && decide (uc < c.1.offset + drawnWidth c.1.glyph.width * magX)).map fun c => (c.2, c.1)

/-! ## The source a line needs -/

/-- What a line of a box needs of its source (R64): nothing, a source row, or a source column. A strip's
column is numbered 128 times its character's place plus the glyph column. -/
inductive SourceNeed where
  | nothing
  | row (index : Nat)
  | column (index : Nat)
  deriving DecidableEq, Repr

/-- The U row or U column that box row `r` needs (R63): a row under R0 and R179, else a column. -/
def boxRowSource (rotation : Rotation) (h r : Nat) : Nat :=
  match rotation with
  | .r0 | .r90 => r
  | .r179 | .r270 => h - 1 - r

/-- Whether a Rotation takes one source row for a line. -/
def Rotation.byRow : Rotation → Bool
  | .r0 | .r179 => true
  | .r90 | .r270 => false

/-- The source that box row `r` of an object needs (R64). -/
def ObjectContext.needs (c : ObjectContext) (r : Nat) : SourceNeed :=
  let u := boxRowSource c.rotation c.box.h r
  match c.body with
  | .image _ _ width height _ =>
    if c.rotation.byRow then (if u < height * c.magY then .row (u / c.magY) else .nothing)
    else if u < width * c.magX then .column (u / c.magX) else .nothing
  | .strip s =>
    if c.rotation.byRow then (if u < s.height then .row (u / c.magY) else .nothing)
    else match s.charAt c.magX u with
      | some (k, ch) => .column (128 * k + (u - ch.offset) / c.magX)
      | none => .nothing
  | _ => .nothing

/-- The reads, address and length, that bring in a source row or column (R64, R104). That a strip's glyphs are
read by first occurrence, and a glyph's column bytes by rising row, is the model's choice (log entry 43). -/
def ObjectContext.reads (c : ObjectContext) (need : SourceNeed) : List (Nat × Nat) :=
  match c.body, need with
  | .image base offset width _ pitch, .row i => [(base + offset + i * pitch, bytesFor width)]
  | .image base offset _ height pitch, .column i =>
    (List.range height).map fun r => (base + offset + r * pitch + i / 8, 1)
  | .strip s, .row i =>
    s.drawnGlyphs.map fun e => (s.base + e.bitmapOffset + i * bytesFor e.width, bytesFor e.width)
  | .strip s, .column i =>
    match s.chars[i / 128]? with
    | some ch =>
      (List.range s.rows).map fun r =>
        (s.base + ch.glyph.bitmapOffset + r * bytesFor ch.glyph.width + i % 128 / 8, 1)
    | none => []
  | _, _ => []

/-- The source data from the reads in order: a row keeps one byte list for each read, a column one byte
list in all. -/
def sourceData (need : SourceNeed) (got : List (List Byte)) : List (List Byte) :=
  match need with
  | .column _ => [got.flatten]
  | _ => got

/-- The bit of U at column `uc` and row `ur`, from the held source row (R62). -/
def ObjectContext.rowBit (c : ObjectContext) (data : List (List Byte)) (uc : Nat) : Bool :=
  match c.body with
  | .image _ _ width _ _ => decide (uc < width * c.magX) && bitOfRow (data.getD 0 []) (uc / c.magX)
  | .strip s =>
    match s.charAt c.magX uc with
    | some (_, ch) =>
      bitOfRow (data.getD (s.drawnGlyphs.findIdx fun e => e.index == ch.glyph.index) []) ((uc - ch.offset) / c.magX)
    | none => false
  | _ => false

/-- The bit of U at row `ur`, from the held source column of index `i` (R62). -/
def ObjectContext.columnBit (c : ObjectContext) (data : List (List Byte)) (i ur : Nat) : Bool :=
  match c.body with
  | .image _ _ _ height _ =>
    decide (ur < height * c.magY) && ((data.getD 0 []).getD (ur / c.magY) 0).getMsbD (i % 8)
  | .strip s =>
    decide (ur < s.height) && ((data.getD 0 []).getD (ur / c.magY) 0).getMsbD (i % 128 % 8)
  | _ => false

/-- The value of the box dot at box column `col` of a line whose source is held (R63). -/
def ObjectContext.sourceBit (c : ObjectContext) (data : List (List Byte)) (need : SourceNeed) (col : Nat) : Bool :=
  match need with
  | .nothing => false
  | .row _ => c.rowBit data (if c.rotation = .r0 then col else c.box.w - 1 - col)
  | .column i => c.columnBit data i (if c.rotation = .r90 then c.box.w - 1 - col else col)

end Sys2Proof.Machine
end

