-- ==== Sys2Proof/Machine/Symbols.lean ====
section
/-! DEFINITION. Barcode symbols (04_barcode_symbols): the module grid, bar reduction, reversal, quiet zones,
boxes, the edge table and the dead-dot avoidance shift search; and the label orientation (R53). -/

namespace Sys2Proof.Machine

open Sys2Proof

/-! ## Label orientation -/

/-- The column is flipped when exactly one of MIRROR and TURN is set (R53). -/
def CopyGeometry.columnFlipped (g : CopyGeometry) : Bool := g.mirror != g.turn

/-- The label column that physical column `q` carries (R53). -/
def CopyGeometry.labelColumn (g : CopyGeometry) (q : Nat) : Int :=
  if g.columnFlipped then (g.labelWidth : Int) - 1 - q else q

/-- The label line that physical line `p` carries (R53). -/
def CopyGeometry.labelLine (g : CopyGeometry) (p : Nat) : Int :=
  if g.turn then (g.labelLength : Int) - 1 - p else p

/-- The head dots of the label area (R60). -/
def CopyGeometry.labelArea (g : CopyGeometry) : Dots :=
  dotsOf fun d => decide (g.leftOffset ≤ d) && decide (d < g.leftOffset + g.labelWidth)

/-- The first physical column of a box (R53). -/
def CopyGeometry.firstColumn (g : CopyGeometry) (b : Box) : Int :=
  if g.columnFlipped then (g.labelWidth : Int) - b.x - b.w else b.x

/-- The first physical line of a box (R53). -/
def CopyGeometry.firstLine (g : CopyGeometry) (b : Box) : Int :=
  if g.turn then (g.labelLength : Int) - b.y - b.h else b.y

/-- The head span of a label-column span, before any shift (R80). -/
def CopyGeometry.headSpan (g : CopyGeometry) (s : Span) : Span :=
  if g.columnFlipped then
    { first := g.leftOffset + g.labelWidth - 1 - s.last, last := g.leftOffset + g.labelWidth - 1 - s.first }
  else { first := g.leftOffset + s.first, last := g.leftOffset + s.last }

/-! ## Elements on the module grid -/

/-- The symbol's total modules T. -/
def BarSpec.modules (b : BarSpec) : Nat := b.widths.sum

/-- The symbol width W in cells. -/
def BarSpec.extent (b : BarSpec) : Nat := b.moduleWidth * b.modules

/-- The width of one quiet zone in cells (R78). -/
def BarSpec.quietCells (b : BarSpec) : Nat := b.quietZone * b.moduleWidth

/-- The drawn cells of one bar of `w` modules that begins `p` modules into the symbol, relative to the
origin (R76), reversed within the symbol when REVERSE is set (R77). -/
def BarSpec.barSpan (b : BarSpec) (p w : Nat) : Span :=
  let first : Int := b.moduleWidth * p
  let last : Int := b.moduleWidth * (p + w) - b.reduction - 1
  if b.reverse then { first := b.extent - 1 - last, last := b.extent - 1 - first }
  else { first := first, last := last }

/-- The bars among the elements `widths`, from element parity `bar`, `p` modules into the symbol (R75). -/
def BarSpec.barsFrom (b : BarSpec) : Bool → Nat → List Nat → List Span
  | _, _, [] => []
  | true, p, w :: ws => b.barSpan p w :: b.barsFrom false (p + w) ws
  | false, p, w :: ws => b.barsFrom true (p + w) ws

/-- The bar spans in element order, relative to the origin. -/
def BarSpec.bars (b : BarSpec) : List Span := b.barsFrom true 0 b.widths

/-- A span moved by `s`. -/
def Span.move (s : Int) (a : Span) : Span := { first := a.first + s, last := a.last + s }

/-- The two quiet zones, relative to the origin; none when Quiet Zone is 0 (R78). -/
def BarSpec.quiets (b : BarSpec) : List Span :=
  if b.quietZone = 0 then []
  else [{ first := -(b.quietCells : Int), last := -1 },
        { first := b.extent, last := b.extent + b.quietCells - 1 }]

/-- The box of a BAR object at label column `x` and line `y` (R79, R81). -/
def BarSpec.box (b : BarSpec) (x y : Nat) : Box :=
  match b.orientation with
  | .picket =>
    { x := (x : Int) - b.quietCells - b.maxShift, y := y
      w := b.extent + 2 * b.quietCells + 2 * b.maxShift, h := b.barLength }
  | .ladder =>
    { x := x, y := (y : Int) - b.quietCells, w := b.barLength, h := b.extent + 2 * b.quietCells }

/-! ## Rows of spans -/

/-- Whether a cell lies in a span. -/
def Span.has (a : Span) (k : Int) : Bool := decide (a.first ≤ k) && decide (k ≤ a.last)

/-- The head dots of some spans. -/
def spanDots (spans : List Span) : Dots := dotsOf fun d => spans.any fun a => a.has d

/-! ## The shift search -/

/-- The candidate shifts after 0, in order: +1, -1, +2, -2 and so on (R85). -/
def shiftsUpTo : Nat → List Int
  | 0 => []
  | n + 1 => shiftsUpTo n ++ [((n + 1 : Nat) : Int), -((n + 1 : Nat) : Int)]

/-- The score of a shift: the bad dots inside the moved bars and the label area (R87). -/
def shiftScore (g : CopyGeometry) (bad : Dots) (bars : List Span) (s : Int) : Nat :=
  countDots (spanDots (bars.map (Span.move s)) &&& bad &&& g.labelArea)

/-- A nonzero candidate is skipped when the symbol with its quiet zones would leave the label area (R86).
`extent` is the head span of the symbol with its quiet zones before any shift. -/
def shiftSkipped (g : CopyGeometry) (extent : Span) (s : Int) : Bool :=
  decide (extent.first + s < g.leftOffset) || decide ((g.leftOffset : Int) + g.labelWidth ≤ extent.last + s)

/-- The search from a best choice so far over the candidates left, ending at a score of 0 (R85, R88). -/
def searchFrom (g : CopyGeometry) (bad : Dots) (bars : List Span) (extent : Span) :
    Int × Nat → List Int → Int × Nat
  | best, [] => best
  | best, s :: ss =>
    if best.2 = 0 then best
    else if shiftSkipped g extent s then searchFrom g bad bars extent best ss
    else
      let score := shiftScore g bad bars s
      searchFrom g bad bars extent (if score < best.2 then (s, score) else best) ss

/-- The chosen shift and its score (R85 to R88). -/
def shiftSearch (g : CopyGeometry) (bad : Dots) (bars : List Span) (extent : Span) (maxShift : Nat) : Int × Nat :=
  searchFrom g bad bars extent (0, shiftScore g bad bars 0) (shiftsUpTo maxShift)

/-- Put spans that run in falling order into rising order. -/
def risingIf (falling : Bool) (spans : List Span) : List Span := if falling then spans.reverse else spans

/-- The edge table of a PICKET symbol at label column `x` (R83, R80). -/
def BarSpec.picketTable (b : BarSpec) (g : CopyGeometry) (bad : Dots) (x : Nat) : EdgeTable :=
  let toHead := fun a : Span => g.headSpan (a.move x)
  let bars := risingIf (b.reverse != g.columnFlipped) (b.bars.map toHead)
  let extent := toHead { first := -(b.quietCells : Int), last := b.extent + b.quietCells - 1 }
  let choice := shiftSearch g bad bars extent b.maxShift
  { bars := bars.map (Span.move choice.1)
    quiet := if b.clearQuiet then risingIf g.columnFlipped ((b.quiets.map toHead).map (Span.move choice.1)) else []
    shift := choice.1
    score := choice.2 }

/-- The edge table of a LADDER symbol, in box rows (R81 to R83). -/
def BarSpec.ladderTable (b : BarSpec) : EdgeTable :=
  { bars := risingIf b.reverse (b.bars.map (Span.move b.quietCells))
    quiet := if b.clearQuiet then b.quiets.map (Span.move b.quietCells) else []
    shift := 0
    score := 0 }

end Sys2Proof.Machine
end

