-- ==== Sys2Proof/Machine/Drawing.lean ====
section
/-! DEFINITION. The Composer's pure parts: the box of each object and the Pending Object List (R51 to R54),
object contexts (R58), the dots an object draws on a line and its Op (R59 to R63), and the three walks,
over the objects of a copy, the entries of a line and the active objects of a line, each of which ends or
pauses at a read of job memory. -/

namespace Sys2Proof.Machine

open Sys2Proof

/-! ## Boxes and the Pending Object List -/

/-- The box of an object that needs no sizing read (R51); none for TEXT and SERIAL. -/
def PrintObject.directBox (o : PrintObject) : Option Box :=
  match o.body with
  | .rule width height _ => some { x := o.x, y := o.y, w := width, h := height }
  | .bar spec => some (spec.box o.x o.y)
  | .image _ width height _ => some (turnedBox o.rotation o.x o.y (width * o.magX) (height * o.magY))
  | .text _ _ => none
  | .serial _ => none

/-- The placeholder box of an object whose sizing failed (R52). -/
def PrintObject.placeholder (o : PrintObject) : Box := { x := o.x, y := o.y, w := 1, h := 1 }

/-- The box of a TEXT or SERIAL object from the drawn widths of its characters (R51, R95). -/
def PrintObject.stripBox (o : PrintObject) (setHeight : Nat) (widths : List Nat) : Box :=
  turnedBox o.rotation o.x o.y (stripWidth o.magX o.spacing widths) (setHeight * o.magY)

/-- Whether a box has dots inside the label (R51). -/
def CopyGeometry.keeps (g : CopyGeometry) (b : Box) : Bool :=
  decide (0 < b.w) && decide (0 < b.h) && decide (0 < b.x + b.w) && decide (b.x < g.labelWidth)
    && decide (0 < b.y + b.h) && decide (b.y < g.labelLength)

/-- The Pending Object List entry of a box that is kept (R54). -/
def CopyGeometry.entry (g : CopyGeometry) (index : Nat) (b : Box) : PendingEntry :=
  { index := index, box := b, firstColumn := g.firstColumn b
    entryLine := (g.firstLine b).toNat
    leaveLine := min (g.labelLength - 1) ((g.firstLine b) + b.h - 1).toNat }

/-- Put an entry after all entries of the same or an earlier entry line (R54). -/
def insertEntry (e : PendingEntry) : List PendingEntry → List PendingEntry
  | [] => [e]
  | a :: as => if e.entryLine < a.entryLine then e :: a :: as else a :: insertEntry e as

/-- Add an object's box to the list, or leave the object out silently (R51, R54). -/
def CopyGeometry.addBox (g : CopyGeometry) (index : Nat) (b : Box) (acc : List PendingEntry) : List PendingEntry :=
  if g.keeps b then insertEntry (g.entry index b) acc else acc

/-- The Resource Table copy's entry of an object. -/
def resourceFor (resources : List ResourceEntry) (o : PrintObject) : ResourceEntry :=
  resources.getD o.resource .unusable

/-- Whether a glyph set's header can be read within the object's resource (R52). That the entry check, too, makes no
read of one that cannot is the model's choice, log entry 55. -/
def headerReadable (resources : List ResourceEntry) (o : PrintObject) : Bool :=
  decide ((resourceFor resources o).kind = .glyphs) && decide (8 ≤ (resourceFor resources o).length)

/-- Where the walk over a copy's objects stands: it has ended, or it waits for the header read of object
`index` (R52). -/
inductive BuildNext where
  | done (acc : List PendingEntry)
  | read (index : Nat) (todo : List Nat) (acc : List PendingEntry)
  deriving DecidableEq, Repr

/-- The walk over a copy's objects that are still to be examined (R51 to R54). -/
def buildFrom (g : CopyGeometry) (resources : List ResourceEntry) (objects : List PrintObject) :
    List Nat → List PendingEntry → BuildNext
  | [], acc => .done acc
  | i :: todo, acc =>
    match objects[i]? with
    | none => buildFrom g resources objects todo acc
    | some o =>
      match o.directBox with
      | some b => buildFrom g resources objects todo (g.addBox i b acc)
      | none =>
        if headerReadable resources o then .read i todo acc
        else buildFrom g resources objects todo (g.addBox i o.placeholder acc)

/-! ## Contexts and entering -/

/-- An object's context (R58). -/
def contextOf (o : PrintObject) (e : PendingEntry) (body : ContextBody) : ObjectContext :=
  { index := e.index, op := o.op, box := e.box, firstColumn := e.firstColumn
    entryLine := e.entryLine, leaveLine := e.leaveLine, rotation := o.rotation
    magX := o.magX, magY := o.magY, body := body, held := none }

/-- Put a context in the place of its object index (R56). -/
def insertContext (c : ObjectContext) : List ObjectContext → List ObjectContext
  | [] => [c]
  | a :: as => if c.index < a.index then c :: a :: as else a :: insertContext c as

/-- The counts that entering reports into the running result (R35, R56). -/
structure Tally where
  omitted : Nat
  missing : Nat
  badDots : Nat
  deriving DecidableEq, Repr

/-- Nothing to report. -/
def Tally.zero : Tally := { omitted := 0, missing := 0, badDots := 0 }

/-- Whether an image's data range lies within its resource (R103). -/
def imageInRange (r : ResourceEntry) (offset width height pitch : Nat) : Bool :=
  decide (r.kind = .image) && decide (offset + (height - 1) * pitch + bytesFor width ≤ r.length)

/-- How an object that reads nothing at entry enters (R56, R57): its body and the bad dots under its bars,
none when the resource check fails. -/
def enterDirect (g : CopyGeometry) (resources : List ResourceEntry) (bad : Dots) (o : PrintObject) :
    Option (ContextBody × Nat) :=
  match o.body with
  | .rule _ _ border => some (.rule border, 0)
  | .bar spec =>
    match spec.orientation with
    | .picket =>
      let table := spec.picketTable g bad o.x
      some (.picket table, table.score)
    | .ladder => some (.ladder spec.ladderTable, 0)
  | .image offset width height pitch =>
    let r := resourceFor resources o
    if imageInRange r offset width height pitch then some (.image r.base offset width height pitch, 0) else none
  | _ => none

/-- Whether an object is a TEXT or a SERIAL. -/
def PrintObject.hasStrip (o : PrintObject) : Bool :=
  match o.body with
  | .text _ _ => true
  | .serial _ => true
  | _ => false

/-- Where the walk over a line's entries stands: it has ended, or it waits for the header read of `entry`. -/
inductive EnterNext where
  | done (active : List ObjectContext) (tally : Tally)
  | read (entry : PendingEntry) (todo : List PendingEntry) (active : List ObjectContext) (tally : Tally)
  deriving DecidableEq, Repr

/-- The walk over the entries of a line (R56): capacity, resource check, setup and entry of each. -/
def enterFrom (g : CopyGeometry) (resources : List ResourceEntry) (bad : Dots) (objects : List PrintObject) :
    List PendingEntry → List ObjectContext → Tally → EnterNext
  | [], active, tally => .done active tally
  | e :: todo, active, tally =>
    if Config.activeCapacity ≤ active.length then
      enterFrom g resources bad objects todo active { tally with omitted := tally.omitted + 1 }
    else match objects[e.index]? with
      | none => enterFrom g resources bad objects todo active tally
      | some o =>
        if o.hasStrip ∧ headerReadable resources o then .read e todo active tally
        else match enterDirect g resources bad o with
          | some (body, bars) =>
            enterFrom g resources bad objects todo (insertContext (contextOf o e body) active)
              { tally with badDots := tally.badDots + bars }
          | none => enterFrom g resources bad objects todo active { tally with omitted := tally.omitted + 1 }

/-! ## Drawing -/

/-- The box row of an object on physical line `p`, if the line crosses its box (R63). -/
def ObjectContext.boxRow (c : ObjectContext) (g : CopyGeometry) (p : Nat) : Option Nat :=
  let r := g.labelLine p - c.box.y
  if 0 ≤ r ∧ r < c.box.h then some r.toNat else none

/-- The head dots, within the label, of a box's columns at which `f` holds (R53, R60). -/
def boxDots (g : CopyGeometry) (b : Box) (f : Nat → Bool) : Dots :=
  dotsOf fun d =>
    decide (g.leftOffset ≤ d) && decide (d < g.leftOffset + g.labelWidth) &&
      (let col := g.labelColumn (d - g.leftOffset) - b.x
       decide (0 ≤ col) && decide (col < b.w) && f col.toNat)

/-- Whether an outlined or solid rule draws box dot (`col`, `r`) (R61). -/
def ruleBit (border w h col r : Nat) : Bool :=
  decide (border = 0) || decide (col < border) || decide (w ≤ col + border) || decide (r < border)
    || decide (h ≤ r + border)

/-- The head dots that an object clears before it draws, on box row `r` (R78, R80, R82). -/
def ObjectContext.clearDots (c : ObjectContext) (g : CopyGeometry) (r : Nat) : Dots :=
  match c.body with
  | .picket t => spanDots t.quiet &&& g.labelArea
  | .ladder t => if t.quiet.any fun a => a.has r then boxDots g c.box fun _ => true else 0
  | _ => 0

/-- The head dots that an object draws on box row `r`, given its held source (R59, R61 to R63, R80, R82). -/
def ObjectContext.drawDots (c : ObjectContext) (g : CopyGeometry) (r : Nat) : Dots :=
  match c.body with
  | .rule border => boxDots g c.box fun col => ruleBit border c.box.w c.box.h col r
  | .picket t => spanDots t.bars &&& g.labelArea
  | .ladder t => if t.bars.any fun a => a.has r then boxDots g c.box fun _ => true else 0
  | _ =>
    match c.held with
    | none => 0
    | some held =>
      let need := c.needs r
      boxDots g c.box fun col => c.sourceBit held.data need col

/-- What an Op does with the dots drawn (R59). -/
def DrawOp.apply (op : DrawOp) (line dots : Dots) : Dots :=
  match op with
  | .set => line ||| dots
  | .clear => line &&& ~~~dots
  | .flip => line ^^^ dots

/-- Apply an object whose source is held to the working line on physical line `p` (R59, R78). -/
def ObjectContext.applyTo (c : ObjectContext) (g : CopyGeometry) (p : Nat) (line : Dots) : Dots :=
  match c.boxRow g p with
  | none => line
  | some r => c.op.apply (line &&& ~~~c.clearDots g r) (c.drawDots g r)

/-- The index of a need. -/
def SourceNeed.index? : SourceNeed → Option Nat
  | .nothing => none
  | .row i => some i
  | .column i => some i

/-- The source an object must read before physical line `p` can be drawn: none when it needs no source or
holds the one it needs (R64). A line for which nothing is read keeps the held source (the model's choice, log
entry 43). -/
def ObjectContext.mustRead (c : ObjectContext) (g : CopyGeometry) (p : Nat) : Option (Nat × List (Nat × Nat)) :=
  match c.boxRow g p with
  | none => none
  | some r =>
    match (c.needs r).index? with
    | none => none
    | some i => if c.held.map (·.index) = some i then none else some (i, c.reads (c.needs r))

/-- Where the walk over a line's active objects stands: the line, or the object whose source must be read. -/
inductive DrawNext where
  | done (line : Dots)
  | read (index sourceIndex : Nat) (reads : List (Nat × Nat)) (todo : List Nat) (line : Dots)
  deriving DecidableEq, Repr

/-- The walk over the active objects still to be applied, by rising object index (R59, R64). -/
def drawFrom (g : CopyGeometry) (p : Nat) (active : List ObjectContext) : List Nat → Dots → DrawNext
  | [], line => .done line
  | i :: todo, line =>
    match active.find? fun c => c.index == i with
    | none => drawFrom g p active todo line
    | some c =>
      match c.mustRead g p with
      | some (source, reads) =>
        if reads = [] then drawFrom g p active todo line else .read i source reads todo line
      | none => drawFrom g p active todo (c.applyTo g p line)

/-- The line record of a completed line (R65), clipped to the label area (R60). -/
def lineRecord (g : CopyGeometry) (p : Nat) (line : Dots) : LineRecord :=
  { dots := line &&& g.labelArea, copy := g.copy, line := p
    first := decide (p = 0), last := decide (p + 1 = g.labelLength) }

end Sys2Proof.Machine
end

