-- ==== Sys2Proof/Machine/Settings.lean ====
section
/-! DEFINITION. The records of the control area as read: the Settings Block with its clamps (R5, R6,
Table 1-2), the Resource Table (R8, Table 1-4), and the Fault Record as written (Table 1-3). -/

namespace Sys2Proof.Machine

open Sys2Proof

/-- Media Kind; an undefined code is GAP (R6). -/
def mediaKindOf : Nat → MediaKind
  | 1 => .mark
  | 2 => .continuous
  | _ => .gap

/-- Print Method; an undefined code is DIRECT (R6). -/
def printMethodOf : Nat → PrintMethod
  | 1 => .transfer
  | _ => .direct

/-- Presentation; an undefined code is NONE (R6). -/
def presentationOf : Nat → Presentation
  | 1 => .tear
  | 2 => .peel
  | _ => .none

/-- Clamp each entry to at most the one before it as already clamped (R5). -/
def clampFalling : Nat → List Nat → List Nat
  | _, [] => []
  | bound, v :: vs => min bound v :: clampFalling (min bound v) vs

/-- A table whose entries after the first are clamped to at most the entry before (R5). -/
def nonIncreasing : List Nat → List Nat
  | [] => []
  | v :: vs => v :: clampFalling v vs

/-- `n` two-byte entries of the block from control-area offset `off`, clamped to `lo..hi`. -/
def tableAt (block : List Byte) (off n lo hi : Nat) : List Nat :=
  (List.range n).map fun k => clamp lo hi (field block (off - 0x44 + 2 * k) 2)

/-- The settings that the block bytes (control-area offsets 044h to 0ABh) load as (R5, R6, Table 1-2). -/
def settingsOf (block : List Byte) : Settings :=
  let at1 := fun off => field block (off - 0x44) 1
  let at2 := fun off => field block (off - 0x44) 2
  let hold := clamp 0 1023 (at2 0x98)
  let currentMin := clamp 0 1023 (at2 0xA8)
  { mediaKind := mediaKindOf (at1 0x44)
    printMethod := printMethodOf (at1 0x45)
    presentation := presentationOf (at1 0x46)
    presentDistance := clamp 0 1023 (at2 0x48)
    sensorOffset := at1 0x4A
    topAdjust := clampInt (-64) 64 (signedField 8 (at1 0x4B))
    mediaThreshold := clamp 0 1022 (at2 0x4C)
    mediaHysteresis := clamp 0 63 (at1 0x4E)
    maxGapLength := clamp 2 255 (at1 0x4F)
    maxSearch := clamp 64 16383 (at2 0x50)
    calibrateLength := clamp 256 4096 (at2 0x52)
    speedTable := nonIncreasing (tableAt block 0x54 8 250 20000)
    rampLines := clamp 1 64 (at1 0x64)
    defaultSpeed := clamp 0 7 (at1 0x65)
    nominalBurn := clamp 50 4000 (at2 0x66)
    defaultDarkness := clamp 0 30 (at1 0x68)
    heatTable := tableAt block 0x6A 17 0 511
    historyFactors := nonIncreasing (tableAt block 0x8C 4 0 256)
    historyExpiry := clamp 1 255 (at1 0x94)
    powerBudget := clamp 320 1280 (at2 0x96)
    holdLimit := hold
    resumeLimit := min hold (clamp 0 1023 (at2 0x9A))
    tripLimit := max hold (clamp 0 1023 (at2 0x9C))
    supplyLow := clamp 0 1023 (at2 0x9E)
    ribbonWindow := clamp 16 1024 (at2 0xA0)
    ribbonMin := clamp 1 255 (at1 0xA2)
    ribbonLowCounts := clamp 0 1023 (at2 0xA4)
    lookInterval := at1 0xA6
    testPulse := clamp 2 50 (at1 0xA7)
    dotCurrentMin := currentMin
    dotCurrentMax := max currentMin (clamp 0 1023 (at2 0xAA)) }

/-- The Kind of a resource entry, if defined and enabled (R8). -/
def resourceKindOf (kind enable : Nat) : ResourceKind :=
  if enable = 0 then .none else match kind with
    | 1 => .glyphs
    | 2 => .image
    | _ => .none

/-- One entry of the Resource Table as read (R8). -/
def resourceOf (bytes : List Byte) : ResourceEntry :=
  let base := field bytes 0 4
  let length := field bytes 4 4
  let kind := resourceKindOf (field bytes 8 1) (field bytes 9 1)
  if base < Config.memoryReach ∧ base % 4 = 0 ∧ length ≤ Config.memoryReach
      ∧ base + length ≤ Config.memoryReach ∧ kind ≠ .none
  then { kind := kind, base := base, length := length }
  else .unusable

/-- The Resource Table copy that the 256 bytes of the table give (R8). -/
def resourcesOf (bytes : List Byte) : List ResourceEntry :=
  (List.range 16).map fun k => resourceOf ((bytes.drop (16 * k)).take 16)

/-- Code of an engine state (Table 1-11). -/
def EngineState.code : EngineState → Nat
  | .stopped => 0
  | .loading => 1
  | .running => 2
  | .stopping => 3
  | .halted => 4

/-- Code of a fault cause (Table 1-10). -/
def Cause.code : Cause → Nat
  | .headOpen => 1
  | .headTrip => 2
  | .supplyLow => 3
  | .mediaOut => 4
  | .gapMissing => 5
  | .ribbonOut => 6
  | .memoryFault => 7
  | .chainAddress => 8

/-- Bit of a cause in the further-causes set (Table 1-3). -/
def Cause.bit (c : Cause) : BitVec 8 := 1#8 <<< (c.code - 1)

/-- The 32 bytes of the Fault Record (Table 1-3). -/
def faultRecordBytes (capture : FaultCapture) (further : BitVec 8) : List Byte :=
  leBytes 1 capture.cause.code ++ leBytes 1 capture.stateBefore.code ++ [further] ++ leBytes 1 0
    ++ leBytes 4 capture.ticket.toNat ++ leBytes 2 capture.copy ++ leBytes 2 capture.line
    ++ leBytes 2 capture.therm.toNat ++ leBytes 2 capture.supply.toNat ++ leBytes 2 capture.media.toNat
    ++ leBytes 14 0

end Sys2Proof.Machine
end

