-- ==== Sys2Proof/Machine/Flags.lean ====
section
/-! DEFINITION. The flags and read views of the register window: the pending and enable bits of EVENTS and
INT (R17), the refusals (R176), STATUS and the reads of the four registers (R16, Table 1-11). -/

namespace Sys2Proof.Machine

open Sys2Proof

/-- Bit of an event in EVENTS (Table 1-11). -/
def Event.bit : Event → Nat
  | .ticketEnd => 0
  | .chainDry => 1
  | .halt => 2
  | .testEnd => 3
  | .hold => 4
  | .ribbonLow => 5
  | .refused => 6

/-- Set an event's pending bit (R17). -/
def EngineControl.raise (e : Event) (c : EngineControl) : EngineControl :=
  { c with pendingBits := c.pendingBits ||| 1#7 <<< e.bit }

/-- Whether an event is pending. -/
def EngineControl.isPending (e : Event) (c : EngineControl) : Bool := c.pendingBits.getLsbD e.bit

/-- Refuse a host write: REFUSED is set pending and the last refused command is recorded (R176). -/
def EngineControl.refuse (r : RefusedCommand) (c : EngineControl) : EngineControl :=
  { (c.raise .refused) with lastRefused := r }

/-- INT is asserted while a pending bit has its enable bit set (R17). -/
def EngineControl.int (c : EngineControl) : Bool := decide (c.pendingBits &&& c.enableBits ≠ 0)

/-- A host write to EVENTS (R17). -/
def EngineControl.writeEvents (value : Word) (c : EngineControl) : EngineControl :=
  { c with pendingBits := c.pendingBits &&& ~~~value.extractLsb' 0 7, enableBits := value.extractLsb' 16 7 }

/-- Raise an event in the part. -/
def Chip.raise (e : Event) (c : Chip) : Chip := { c with engine := c.engine.raise e }

/-- Refuse a host write in the part. -/
def Chip.refuse (r : RefusedCommand) (c : Chip) : Chip := { c with engine := c.engine.refuse r }

/-- Code of a job state (Table 1-11). -/
def JobState.code : JobState → Nat
  | .dry => 0
  | .ready => 1
  | .align => 2
  | .print => 3
  | .present => 4
  | .awaitTake => 5
  | .feeding => 6
  | .calibrating => 7

/-- Code of the test report (Table 1-11). -/
def TestReport.code : TestReport → Nat
  | .idle => 0
  | .running => 1
  | .passed => 2
  | .abandoned => 3

/-- Code of the last refused command (Table 1-11). -/
def RefusedCommand.code : RefusedCommand → Nat
  | .none => 0
  | .start => 1
  | .stop => 2
  | .look => 3
  | .resume => 4
  | .cancelTicket => 5
  | .cancelChain => 6
  | .dotTest => 7
  | .reset => 8
  | .areaWrite => 9
  | .unknown => 15

/-- STATUS shows SUPPLY_ON while the supply is SETTLING or ON (R162). -/
def SupplyState.shownOn : SupplyState → Bool
  | .off => false
  | .settling _ => true
  | .on => true

/-- A read of STATUS (R16, Table 1-11). -/
def Chip.status (c : Chip) : Word :=
  BitVec.ofNat 32 (c.engine.state.code
    + 2 ^ 3 * (match c.engine.firstCause with | none => 0 | some k => k.code)
    + 2 ^ 8 * c.engine.further.toNat
    + 2 ^ 16 * c.job.jobState.code
    + 2 ^ 20 * c.protection.report.code
    + 2 ^ 22 * (if c.protection.thermal = .hold then 1 else 0)
    + 2 ^ 23 * c.scanner.headClosed.debounced.toNat
    + 2 ^ 24 * c.protection.supply.shownOn.toNat
    + 2 ^ 25 * c.engine.lastRefused.code)

/-- A read of EVENTS (Table 1-11). -/
def EngineControl.readEvents (c : EngineControl) : Word :=
  c.pendingBits.setWidth 32 ||| c.enableBits.setWidth 32 <<< 16

/-- A read of the register window, `width` bits wide; any width but 32 reads 0, and so does COMMAND (R16). That a
32-bit read at an offset that names no register returns 0 is the model's choice (log entry 29). -/
def Chip.readRegister (c : Chip) (offset : BitVec 4) (width : Nat) : Word :=
  if width ≠ 32 then 0
  else if offset = 0 then c.engine.area
  else if offset = 8 then c.status
  else if offset = 12 then c.engine.readEvents
  else 0

end Sys2Proof.Machine
end

