-- ==== Sys2Proof/Machine/Memory.lean ====
section
/-! DEFINITION. Job memory: a list of (address, byte) pairs by rising address that lists no byte equal to
0, which is what an unlisted address reads as (log entry 5). -/

namespace Sys2Proof.Machine

open Sys2Proof

namespace Memory

/-- What an address that is not listed reads as. -/
def unlisted : Byte := 0

/-- The byte at an address. -/
def read (m : List Host.Cell) (a : Nat) : Byte :=
  match m with
  | [] => unlisted
  | c :: cs => if c.1 = a then c.2 else read cs a

/-- Write one byte; writing what an unlisted address reads as removes the entry. -/
def write (m : List Host.Cell) (a : Nat) (b : Byte) : List Host.Cell :=
  match m with
  | [] => if b = unlisted then [] else [(a, b)]
  | c :: cs =>
    if c.1 < a then c :: write cs a b
    else if c.1 = a then (if b = unlisted then cs else (a, b) :: cs)
    else if b = unlisted then c :: cs else (a, b) :: c :: cs

/-- The canonical form above a bound: addresses strictly rising from `lo`, below the reach of job
memory, and no entry that reads as an unlisted address does. -/
def wfFrom (lo : Nat) : List Host.Cell → Bool
  | [] => true
  | c :: cs => decide (lo ≤ c.1) && decide (c.1 < Config.memoryReach) && decide (c.2 ≠ unlisted) && wfFrom (c.1 + 1) cs

/-- The canonical form. -/
def wf (m : List Host.Cell) : Bool := wfFrom 0 m

/-- Write one byte if its address lies within job memory. -/
def writeIn (m : List Host.Cell) (a : Nat) (b : Byte) : List Host.Cell :=
  if a < Config.memoryReach then write m a b else m

/-- Read a run of consecutive bytes. -/
def readRun (m : List Host.Cell) (a : Nat) : Nat → List Byte
  | 0 => []
  | n + 1 => read m a :: readRun m (a + 1) n

/-- Write a run of consecutive bytes. -/
def writeRun (m : List Host.Cell) (a : Nat) : List Byte → List Host.Cell
  | [] => m
  | b :: bs => writeRun (writeIn m a b) (a + 1) bs

/-- Write those bytes of a run that a draw of free values says were written: byte `k` onwards. -/
def writeCut (m : List Host.Cell) (draw k a : Nat) : List Byte → List Host.Cell
  | [] => m
  | b :: bs =>
    writeCut (if Config.cutByteWritten draw k then writeIn m a b else m) draw (k + 1) (a + 1) bs

/-- The host's writes, oldest first; a write beyond the 24-bit addresses is no write of job memory. -/
def hostWrite (m : List Host.Cell) : HostWrites → List Host.Cell
  | [] => m
  | w :: ws => hostWrite (writeIn m w.1 w.2) ws

end Memory

end Sys2Proof.Machine
end

