-- ==== Sys2Proof/Machine/Ops.lean ====
section
/-! DEFINITION. The operations that the commands share: asking for and withdrawing accesses of job memory
(R18), stopping Motion, abandoning a burn, flushing and suspending the Composer, switching the head
supply and the gate, abandoning a dot test, and taking a fault cause (R178, R179). -/

namespace Sys2Proof.Machine

open Sys2Proof

/-! ## Time -/

/-- The clock stands at least at `t`: an expiry comes no earlier than the moment its time runs out
(log entry 4). -/
def Chip.advanceTo (t : Nat) (c : Chip) : Chip := { c with now := max c.now t }

/-! ## Accesses of job memory -/

/-- The queue of a requester: its accesses in the order it asked for them (R18). -/
def MemoryPort.queue (q : Requester) (p : MemoryPort) : List Access :=
  match q with
  | .job => p.jobQueue
  | .composer => p.composerQueue
  | .engine => p.engineQueue

/-- Replace the queue of a requester. -/
def MemoryPort.setQueue (q : Requester) (as : List Access) (p : MemoryPort) : MemoryPort :=
  match q with
  | .job => { p with jobQueue := as }
  | .composer => { p with composerQueue := as }
  | .engine => { p with engineQueue := as }

/-- A read of `length` bytes. -/
def readAccess (purpose : Purpose) (location : Location) (length : Nat) : Access :=
  { purpose := purpose, location := location, write := false, length := length, data := []
    issued := false, addr := 0, carried := 0 }

/-- A write of `bytes`. -/
def writeAccess (purpose : Purpose) (location : Location) (bytes : List Byte) : Access :=
  { purpose := purpose, location := location, write := true, length := bytes.length, data := bytes
    issued := false, addr := 0, carried := 0 }

/-- Ask the Memory Port for an access, behind those the requester has already asked for. -/
def Chip.ask (q : Requester) (a : Access) (c : Chip) : Chip :=
  { c with port := c.port.setQueue q (c.port.queue q ++ [a]) }

/-- Withdraw a requester's accesses of some purposes; a burst of theirs in flight completes without use
(R18). -/
def MemoryPort.withdraw (q : Requester) (gone : Purpose → Bool) (p : MemoryPort) : MemoryPort :=
  let p' := p.setQueue q ((p.queue q).filter fun a => !gone a.purpose)
  match p.inFlight with
  | none => p'
  | some b =>
    if b.requester = q ∧ gone b.purpose then { p' with inFlight := some { b with withdrawn := true } } else p'

/-- Withdraw a requester's accesses of some purposes (R18). -/
def Chip.withdraw (q : Requester) (gone : Purpose → Bool) (c : Chip) : Chip :=
  { c with port := c.port.withdraw q gone }

/-- The accesses of LOADING (R177). -/
def Purpose.isLoading : Purpose → Bool
  | .loadHeld => true
  | .settingsFirst .loading => true
  | .settingsBlock .loading _ => true
  | .settingsSecond .loading _ _ => true
  | .loadResources => true
  | .loadBadDots => true
  | _ => false

/-- The settings load of one kind of start (R3). -/
def Purpose.isLoadFor (point : LoadPoint) : Purpose → Bool
  | .settingsFirst p => p == point
  | .settingsBlock p _ => p == point
  | .settingsSecond p _ _ => p == point
  | _ => false

/-- The accesses of a look, its settings load included (R23). -/
def Purpose.isLook : Purpose → Bool
  | .lookLink => true
  | .lookHeader _ => true
  | p => p.isLoadFor .look

/-- The accesses of a fetch (R25). -/
def Purpose.isFetch : Purpose → Bool
  | .fetchRest _ _ => true
  | _ => false

/-- The Resource Table read of a composition start (R32). -/
def Purpose.isResourceTable : Purpose → Bool
  | .resourceTable _ => true
  | _ => false

/-- The writes of an end write-back (R36). -/
def Purpose.isEnd : Purpose → Bool
  | .endResult => true
  | .endNextValue => true
  | .endState => true
  | _ => false

/-- The accesses of a chain walk (R41). -/
def Purpose.isWalk : Purpose → Bool
  | .walkLink => true
  | .walkHeader _ => true
  | .walkResult _ => true
  | .walkHeld _ => true
  | .walkState => true
  | _ => false

/-- The writes of a dot test's publication (R172, R173). -/
def Purpose.isPublication : Purpose → Bool
  | .publishMap => true
  | .publishCount => true
  | .publishPassed => true
  | .publishAbandoned => true
  | _ => false

/-- A Fault Record write, the first of its first cause or a rewrite (R178, R179). -/
def Purpose.isRecord : Purpose → Bool
  | .faultRecord => true
  | .faultRewrite => true
  | _ => false

/-- The Job Controller's reads that the entry to HALTED or to STOPPED withdraws (R44). Of these the spec states the
fetch alone (R25); a start's settings load, a composition start's Resource Table read and a look are the model's
choice, log entries 52, 53 and 56. -/
def Purpose.endsAtHalt (p : Purpose) : Bool :=
  p.isLook || p.isFetch || p.isLoadFor .copyStart || p.isResourceTable

/-! ## The running result and the job state -/

/-- Report into the running result; a report that no ticket is current for is kept by none (R35). -/
def Chip.report (f : RunningResult → RunningResult) (c : Chip) : Chip :=
  match c.job.current with
  | none => c
  | some _ => { c with job := { c.job with result := f c.job.result } }

/-- The address of the current ticket, or of the ticket being ended, or 0 (R178). -/
def JobController.ticketAddress (j : JobController) : Word :=
  match j.current with
  | some t => t.addr
  | none =>
    match j.ending with
    | some e => e.ticket.addr
    | none => 0

/-- The address of the current ticket, or 0 (R20). -/
def JobController.currentAddress (j : JobController) : Word :=
  match j.current with
  | some t => t.addr
  | none => 0

/-- No fetch, promotion or chain walk is in flight (R22). -/
def JobActivity.leavesWaiting : JobActivity → Bool
  | .none => true
  | .look _ => true
  | _ => false

/-- The Job Controller waits on its link (R22). -/
def Chip.waits (c : Chip) : Bool :=
  decide (c.engine.state = .running ∨ c.engine.state = .stopping) && decide (c.job.nextBuffer = .empty)
    && c.job.activity.leavesWaiting && decide (c.job.ending = none)

/-- CHAIN_DRY is raised once until a ticket is taken (R23). -/
def Chip.raiseDry (c : Chip) : Chip :=
  if c.job.dryMark then c
  else { (c.raise .chainDry) with job := { c.job with dryMark := true } }

/-- The job state becomes DRY, with the check of the dry mark (R23). -/
def Chip.becomeDry (c : Chip) : Chip :=
  let c' := { c with job := { c.job with jobState := .dry } }
  if c'.waits && c'.job.lastLookZero then c'.raiseDry else c'

/-- READY when a ticket is current, else DRY (R30). -/
def Chip.settleJobState (c : Chip) : Chip :=
  match c.job.current with
  | some _ => { c with job := { c.job with jobState := .ready } }
  | none => c.becomeDry

/-! ## Motion -/

/-- Motion comes to rest: the timer is stopped, the speed step and ramp count become 0, the stretch mark is
cleared (R130, R132). -/
def MotionController.still (m : MotionController) : MotionController :=
  { m with state := .still, timer := .stopped, speedStep := 0, rampCount := 0, stretchMark := false }

/-- Whether an operation is a calibration. -/
def Operation.isCalibration : Operation → Bool
  | .sampling _ => true
  | .sampled => true
  | .edgeSearch _ _ => true
  | _ => false

/-- Motion stops at once (R146); a calibration stopped so leaves no sampling record (R153). -/
def Chip.stopMotion (c : Chip) : Chip :=
  { c with
    motion := { c.motion.still with operation := .none, searchCount := 0 }
    scanner := { c.scanner with
      sampling := if c.motion.operation.isCalibration then none else c.scanner.sampling }
    job := { c.job with samplingReported := false } }

/-! ## Burn -/

/-- The history is cleared and there is no last line start (R111). -/
def BurnController.clearHistory (b : BurnController) : BurnController :=
  { b with previousRow := 0, rowBefore := 0, lastLineStart := none }

/-- Abandon any burn: the plan is discarded and the history cleared (R123). -/
def BurnController.abandon (b : BurnController) : BurnController := { b.clearHistory with plan := none }

/-- The register flush (R124). -/
def BurnController.flushRegister (b : BurnController) : BurnController := { b with register := none }

/-- A cancel or the entry to HALTED: abandonment with the register flush (R123). -/
def Chip.abandonBurn (c : Chip) : Chip := { c with burn := c.burn.abandon.flushRegister }

/-- The head link is returned to the Burn Controller; a record held UNSHIFTED is shifted again (R125). -/
def BurnController.returnLink (now : Nat) (b : BurnController) : BurnController :=
  { b with
    link := .held
    linkRequested := false
    register := match b.register with
      | some (r, .unshifted) => some (r, .shifting (now + Config.shiftTime))
      | r => r }

/-! ## Composer -/

/-- The Composer with its lists, contexts, working line and Line Store empty. -/
def Composer.emptied (state : ComposerState) : Composer := { Composer.reset with state := state }

/-- The flush of the Composer and the Line Store (R69). -/
def Chip.flushComposer (c : Chip) : Chip :=
  if c.composer.state = .suspended then c
  else { c.withdraw .composer (fun _ => true) with composer := .emptied .idle }

/-- The flush with the register flush that goes with it (R69, R124). -/
def Chip.flush (c : Chip) : Chip :=
  let c' := c.flushComposer
  { c' with burn := c'.burn.flushRegister }

/-- The Composer is suspended at the entry to HALTED (R71). -/
def Chip.suspendComposer (c : Chip) : Chip :=
  { c.withdraw .composer (fun _ => true) with composer := .emptied .suspended }

/-- The Composer is released at the exit from HALTED (R72). -/
def Chip.releaseComposer (c : Chip) : Chip :=
  if c.composer.state = .suspended then { c with composer := .emptied .idle } else c

/-! ## Head supply and gate -/

/-- A dot test is TESTING. -/
def TestState.isTesting : TestState → Bool
  | .testing _ => true
  | _ => false

/-- The conditions of the head supply (R162). -/
def Chip.supplyWanted (c : Chip) : Bool :=
  (decide (c.engine.state = .running ∨ c.engine.state = .stopping) || c.protection.test.isTesting)
    && c.scanner.headClosed.debounced && !c.protection.tripLatch

/-- The gate closes: a burn in progress is abandoned and the history cleared (R163, R123). -/
def Chip.closeGate (c : Chip) : Chip :=
  if c.protection.gate = .closed then c
  else { c with protection := { c.protection with gate := .closed }, burn := c.burn.abandon }

/-- The supply conditions are re-examined (R162); the supply leaving ON closes the gate (R163) and returns
the low supply run to 0 (R166). -/
def Chip.examineSupply (c : Chip) : Chip :=
  if c.supplyWanted then
    match c.protection.supply with
    | .off => { c with protection := { c.protection with supply := .settling (c.now + Config.settleTime) } }
    | _ => c
  else
    let c' := c.closeGate
    { c' with protection := { c'.protection with supply := .off, lowRun := 0 } }

/-! ## Dot test -/

/-- A dot test is abandoned (R173); nothing when none is in hand. A settings load in hand for its start is
withdrawn, whether or not a snapshot is held (the model's choice, log entry 47). -/
def Chip.abandonTest (c : Chip) : Chip :=
  match c.protection.test with
  | .idle => c
  | _ =>
    let c1 := { c with
      protection := { c.protection with test := .idle, report := .abandoned }
      scanner := { c.scanner with waiting := c.scanner.waiting.filter fun r => decide (r ≠ Request.current) }
      burn := c.burn.returnLink c.now }
    ((c1.withdraw .engine (Purpose.isLoadFor .dotTest)).examineSupply).ask .engine
      (writeAccess .publishAbandoned (.area 0x00A) (leBytes 1 2))

/-! ## Faults -/

/-- The Fault Record write: 32 bytes at control area offset 010h (R178), which are settled when it is issued
(R179). -/
def recordAccess (purpose : Purpose) : Access :=
  { purpose := purpose, location := .area 0x010, write := true, length := 32, data := []
    issued := false, addr := 0, carried := 0 }

/-- A Fault Record write that has not been issued. -/
def Access.recordWaits (a : Access) : Bool := a.purpose.isRecord && !a.issued

/-- The Fault Record write of a first cause is wanted (R178). A write of an earlier cause that has not been
issued becomes it, and carries the new capture (log entry 14). -/
def Chip.wantFaultRecord (c : Chip) : Chip :=
  if c.port.engineQueue.any Access.recordWaits then
    { c with port := { c.port with
        engineQueue := c.port.engineQueue.map fun a => if a.recordWaits then recordAccess .faultRecord else a } }
  else c.ask .engine (recordAccess .faultRecord)

/-- A rewrite of the Fault Record is wanted (R179). A write that has not been issued carries the set as it stands
when it is issued, so no second one waits behind it (log entry 14). -/
def Chip.wantFaultRewrite (c : Chip) : Chip :=
  if c.port.engineQueue.any Access.recordWaits then c else c.ask .engine (recordAccess .faultRewrite)

/-- Whether a cause is held, as the first cause or among the further causes (R179). -/
def EngineControl.holds (k : Cause) (e : EngineControl) : Bool :=
  decide (e.firstCause = some k) || decide (e.further &&& k.bit ≠ 0)

/-- The fault capture of a cause (R178). -/
def Chip.captureOf (k : Cause) (ticket : Word) (c : Chip) : FaultCapture :=
  { cause := k, stateBefore := c.engine.state, ticket := ticket
    copy := c.burn.lastCopy, line := c.burn.lastLine
    therm := c.scanner.therm, supply := c.scanner.supply, media := c.scanner.media }

/-- A look in flight ends before it has read a zero link, so the last look read none (R23). -/
def JobController.dropLook (j : JobController) : JobController :=
  match j.activity with
  | .look _ => { j with activity := .none, lastLookZero := false }
  | _ => j

/-- The Job Controller suspends at the entry to HALTED (R44, R25, R27, R36). -/
def JobController.suspend (j : JobController) : JobController :=
  { j.dropLook with
    lookTimer := none
    faulted := j.current.isSome && decide (j.jobState = .align ∨ j.jobState = .print ∨ j.jobState = .feeding
      ∨ j.jobState = .calibrating)
    nextBuffer := match j.nextBuffer with
      | .filling _ _ => .empty
      | b => b
    activity := if j.activity = .fetch then .none else j.dropLook.activity
    promoHalt := decide (j.activity = .promotion .reread)
    ending := j.ending.map fun e => { e with remake := true }
    starting := false
    compositionStart := none }

/-- The entry to HALTED (R178, with R44, R71, R123, R124, R146, R162, R173 and R177). -/
def Chip.enterHalted (c : Chip) : Chip :=
  let c1 := { c with engine := { c.engine with state := .halted, haltedFrom := some c.engine.state } }
  let c2 := (c1.stopMotion.suspendComposer).abandonBurn
  let c3 := { (c2.withdraw .job Purpose.endsAtHalt) with job := c2.job.suspend }
  ((c3.withdraw .engine Purpose.isLoading).abandonTest).examineSupply

/-- Whether a fault cause halts the engine (R175). -/
def EngineState.halts : EngineState → Bool
  | .loading => true
  | .running => true
  | .stopping => true
  | _ => false

/-- A fault cause is reported to Engine Control, with the Ticket Address it would capture (R178, R179). -/
def Chip.reportFault (k : Cause) (ticket : Word) (c : Chip) : Chip :=
  if c.engine.firstCause = none then
    let c1 := { c.raise .halt with
      engine := { (c.engine.raise .halt) with
        firstCause := some k, further := 0, capture := some (c.captureOf k ticket) } }
    let c2 := if c.engine.state.halts then c1.enterHalted else c1
    c2.wantFaultRecord
  else if c.engine.holds k then c
  else
    ({ c with engine := { c.engine with further := c.engine.further ||| k.bit } }).wantFaultRewrite

/-- A fault cause whose Ticket Address is the current ticket, or the ticket being ended, or 0 (R178). -/
def Chip.fault (k : Cause) (c : Chip) : Chip := c.reportFault k c.job.ticketAddress

/-- The Protection Unit watches for trips (R165). -/
def Chip.watches (c : Chip) : Bool :=
  decide (c.engine.state = .loading ∨ c.engine.state = .running ∨ c.engine.state = .stopping
    ∨ c.engine.state = .halted) || c.protection.test.isTesting

/-- A trip is taken (R165): the latch is set, the supply and the gate go off, a dot test is abandoned and
the cause is reported. -/
def Chip.trip (k : Cause) (c : Chip) : Chip :=
  let c1 := { c with protection := { c.protection with tripLatch := true } }
  (c1.examineSupply.abandonTest).fault k

end Sys2Proof.Machine
end

