-- ==== Sys2Proof/Machine/MotionOps.lean ====
section
/-! DEFINITION. The Motion Controller's operations (07_media_motion): print starts and targets, giving an
operation, which step comes next, the pace rule, coming to STILL, and the dwell. -/

namespace Sys2Proof.Machine

open Sys2Proof

/-- The print start of an edge (R137). -/
def MotionController.printStart (m : MotionController) (e : Position) : Position :=
  e + BitVec.ofNat 32 m.values.sensorOffset + BitVec.ofInt 32 m.values.topAdjust

/-- Remove the entries at the head of the Edge Queue whose print start is passed (R137). -/
def MotionController.dropPassed (m : MotionController) : List Position → List Position
  | [] => []
  | e :: es => if isAfter (m.printStart e) m.position then e :: es else m.dropPassed es

/-- The test of the Edge Queue's head for a target (R137): passed entries are removed, and the print start
of the entry then at the head is the target. -/
def MotionController.seek (m : MotionController) : MotionController × Option Position :=
  let q := m.dropPassed m.edgeQueue
  ({ m with edgeQueue := q }, q.head?.map m.printStart)

/-- The forward part of an alignment begins (R138, R139). -/
def MotionController.beginAlign (serving : Bool) (m : MotionController) : MotionController :=
  if m.values.mediaKind = .continuous then
    { m with operation := .align (some (m.position + 1)) serving, searchCount := 0 }
  else
    let (m', target) := m.seek
    { m' with operation := .align target serving, searchCount := 0 }

/-- The forward part of a label feed with `left` print starts to go begins (R143). -/
def MotionController.beginLabels (left : Nat) (m : MotionController) : MotionController :=
  let (m', target) := m.seek
  { m' with operation := .labelFeed left target, searchCount := 0 }

/-- The Job Controller gives an alignment (R138). -/
def MotionController.giveAlignment (m : MotionController) : MotionController :=
  if m.presentedLines = 0 then m.beginAlign true else { m with operation := .alignBack true }

/-- The Job Controller gives a label feed (R143). -/
def MotionController.giveLabelFeed (count : Nat) (m : MotionController) : MotionController :=
  if m.presentedLines = 0 then m.beginLabels count else { m with operation := .labelBack count }

/-- The Job Controller gives a line feed (R143). -/
def MotionController.giveLineFeed (count : Nat) (m : MotionController) : MotionController :=
  { m with operation := .lineFeed count, presentedLines := 0 }

/-- The Job Controller gives a calibration (R144). -/
def MotionController.giveCalibration (m : MotionController) : MotionController :=
  { m with operation := .sampling m.values.calibrateLength, presentedLines := 0 }

/-- Whether the next forward step is a line step (R131). -/
def MotionController.nextIsLine (m : MotionController) : Bool :=
  match m.operation with
  | .align (some t) true => decide (t = m.position + 1)
  | .print _ _ => true
  | _ => false

/-- Whether the operation has a forward step remaining (R131). -/
def Operation.wantsForward : Operation → Bool
  | .none => false
  | .alignBack _ => false
  | .align _ _ => true
  | .print _ _ => true
  | .presentation left => decide (0 < left)
  | .lineFeed left => decide (0 < left)
  | .labelBack _ => false
  | .labelFeed _ _ => true
  | .sampling left => decide (0 < left)
  | .sampled => false
  | .edgeSearch _ _ => true

/-- Whether the operation is a backfeed. -/
def Operation.isBack : Operation → Bool
  | .alignBack _ => true
  | .labelBack _ => true
  | _ => false

/-- Whether a reverse step is wanted (R141). -/
def MotionController.wantsReverse (m : MotionController) : Bool :=
  m.operation.isBack && decide (0 < m.presentedLines)

/-- After a backfeed, the forward part of its operation begins from STILL, or the operation ends when its
alignment has stopped serving a copy (R141, R138). -/
def MotionController.afterBackfeed (m : MotionController) : MotionController :=
  if m.presentedLines = 0 then
    match m.operation with
    | .alignBack true => m.beginAlign true
    | .alignBack false => { m with operation := .none }
    | .labelBack left => m.beginLabels left
    | _ => m
  else m

/-- With the period timer expired and no step wanted, Motion enters STILL (R130, R141). -/
def MotionController.settle (m : MotionController) : MotionController :=
  match m.timer with
  | .expired =>
    match m.state with
    | .forward => if m.operation.wantsForward then m else m.still.afterBackfeed
    | .reverse => if m.wantsReverse then m else m.still.afterBackfeed
    | _ => m
  | _ => m

/-- A step below the target counts toward Ramp Lines and rises when the count reaches it (R134, R135). A handover
met FORWARD can bring a Ramp Lines that the count has already reached; the step then rises at once (the model's
choice, log entry 57). -/
def MotionController.ramp (m : MotionController) : MotionController :=
  if m.values.rampLines ≤ m.rampCount + 1 then { m with speedStep := m.speedStep + 1, rampCount := 0 }
  else { m with rampCount := m.rampCount + 1 }

/-- The pace rule of a line step at a Line Store level (R134). -/
def MotionController.paceLine (level : Nat) (m : MotionController) : MotionController :=
  if m.stretchMark ∨ level < Config.lowLevel then
    { m with speedStep := m.speedStep - 1, rampCount := 0, stretchMark := false }
  else if m.values.target < m.speedStep then
    { m with speedStep := m.speedStep - 1, rampCount := 0 }
  else if Config.rampLevel ≤ level ∧ m.speedStep < m.values.target then m.ramp
  else m

/-- The pace rule of any other forward step (R135). -/
def MotionController.paceFeed (m : MotionController) : MotionController :=
  if m.stretchMark ∨ m.values.target < m.speedStep then
    { m with speedStep := m.speedStep - 1, rampCount := 0, stretchMark := false }
  else if m.speedStep < m.values.target then m.ramp
  else m

/-- The Speed Table entry of a speed step (R131). -/
def MotionController.periodOf (m : MotionController) (step : Nat) : Nat := m.values.speedTable.getD step 250

/-- Settle the speed step for a forward step, and move: the motor takes its next phase, the position rises by 1 and
the period timer is started with the settled period (R131 steps 1 to 3). -/
def MotionController.stepForward (now level : Nat) (m : MotionController) : MotionController :=
  let paced :=
    if m.state = .still ∨ m.state = .dwell then { m with speedStep := 0, rampCount := 0 }
    else if m.nextIsLine then m.paceLine level else m.paceFeed
  { paced with
    state := .forward
    phase := m.phase + 1
    position := m.position + 1
    timer := .running (paced.periodOf paced.speedStep) (now + paced.periodOf paced.speedStep) }

/-- What the motor phase outputs drive: the phase driven last while the gate is OPEN, and nothing, being driven off,
while it is CLOSED (R163). Which levels a phase stands for is the data sheet's (log entry 34). -/
def Chip.motorPhases (c : Chip) : Option Int :=
  match c.protection.gate with
  | .closed => none
  | .opened => some c.motion.phase

/-- Report a dwell stop. -/
def RunningResult.addDwell (r : RunningResult) : RunningResult := { r with dwellStops := saturate8 (r.dwellStops + 1) }

/-- A line step otherwise due finds no line composed: Motion enters DWELL (R133). -/
def Chip.checkDwell (c : Chip) : Chip :=
  if c.motion.state = .forward ∧ c.motion.timer = .expired ∧ c.motion.nextIsLine ∧ c.burn.plan = none
      ∧ c.protection.gate = .opened ∧ c.burn.register = none ∧ c.composer.store = [] then
    { c with motion := { c.motion with state := .dwell, timer := .stopped, stretchMark := false } }.report
      RunningResult.addDwell
  else c

/-- Settle Motion after an event that can leave it with no step wanted, or with a line missing. -/
def Chip.settleMotion (c : Chip) : Chip := { c with motion := c.motion.settle }.checkDwell

/-- An alignment stops serving a copy, because its ticket ends by STOP (R138). One whose backfeed still waits for
Motion to become STILL counts as in its backfeed, and runs the whole of it (the model's choice, log entry 45). -/
def MotionController.stopServing (m : MotionController) : MotionController :=
  match m.operation with
  | .alignBack _ => { m with operation := .alignBack false }
  | .align (some t) _ => { m with operation := .align (some t) false }
  | .align none _ => { m with operation := .none }
  | _ => m

end Sys2Proof.Machine
end

