-- ==== Sys2Proof/Machine/JobOps.lean ====
section
/-! DEFINITION. The Job Controller's operations (02_ticket_flow): looks and their triggers, Held Ticket,
composition starts, ending a ticket, taking one, the chain walk, copies, presentation, copy and ticket
starts, cancelling and stopping a ticket. -/

namespace Sys2Proof.Machine

open Sys2Proof

/-! ## Looks -/

/-- The link the Job Controller waits on: Chain Head, or the Held Ticket's Next (R22). -/
def JobController.link (j : JobController) : Location := if j.held = 0 then .area 0x000 else .at j.held.toNat

/-- Read the link waited on, for a look (R23 step 2). -/
def Chip.askLink (c : Chip) : Chip := c.ask .job (readAccess .lookLink c.job.link 4)

/-- The first Generation read of a settings load (R3, R4). -/
def Chip.askGeneration (q : Requester) (point : LoadPoint) (c : Chip) : Chip :=
  c.ask q (readAccess (.settingsFirst point) (.area 0x040) 4)

/-- A look starts (R23): in DRY it first makes the conditional settings load. -/
def Chip.startLook (c : Chip) : Chip :=
  let c' := { c with job := { c.job with activity := .look false } }
  if c.job.jobState = .dry then c'.askGeneration .job .look else c'.askLink

/-- A look trigger arrives (R24). -/
def Chip.lookTrigger (c : Chip) : Chip :=
  match c.job.activity with
  | .look _ => { c with job := { c.job with activity := .look true } }
  | _ => if c.waits then c.startLook else c

/-- The moment a look interval started now ends, by the snapshot (R24). -/
def Chip.lookDeadline (c : Chip) : Option Nat :=
  match c.job.snapshot with
  | none => none
  | some s => if s.lookInterval = 0 then none else some (c.now + 1000 * s.lookInterval)

/-- A look ends. When the Job Controller is still waiting the look timer is started, and one further look
is made for the triggers remembered (R24). -/
def Chip.endLook (c : Chip) : Chip :=
  let c' := { c with job := { c.job with activity := .none } }
  if c'.waits then
    let c'' := { c' with job := { c'.job with lookTimer := c'.lookDeadline } }
    if c.job.activity = .look true then c''.startLook else c''
  else c'

/-- A ticket becomes the Held Ticket and the write of the control-area field is issued (R2, R23). -/
def Chip.hold (addr : Word) (purpose : Purpose) (c : Chip) : Chip :=
  { c with job := { c.job with held := addr } }.ask .job
    (writeAccess purpose (.area 0x004) (leBytes 4 addr.toNat))

/-- Whether a link value may be followed (R21). -/
def linkGood (v : Word) : Bool := decide (v.toNat < Config.memoryReach) && decide (v.toNat % 4 = 0)

/-! ## Composition starts -/

/-- A copy reaches composition start: the Resource Table is read first (R32). It is given only in RUNNING
and while the Composer is IDLE (R32, R50). -/
def Chip.startComposition (copy : Nat) (c : Chip) : Chip :=
  if c.engine.state = .running ∧ c.composer.state = .idle then
    { c with job := { c.job with compositionStart := some copy } }.ask .job
      (readAccess (.resourceTable copy) (.area 0x0B0) 256)
  else c

/-! ## Ending a ticket -/

/-- Issue the writes of an end write-back in their order (R36, R101). -/
def Chip.askEndWrites (e : EndWriteBack) (c : Chip) : Chip :=
  let at0 := e.ticket.addr.toNat
  let c1 := c.ask .job (writeAccess .endResult (.at (at0 + 0x20)) (resultBytes e.result))
  let c2 := if e.ticket.kind = .print then
      (nextValues e.ticket e.result.copiesCompleted).foldl
        (fun c n => c.ask .job (writeAccess .endNextValue (.at (at0 + n.1 + 0x18)) (leBytes 4 n.2))) c1
    else c1
  c2.ask .job (writeAccess .endState (.at (at0 + 4)) (leBytes 1 e.state.code))

/-- The current ticket's end is decided: it becomes the ticket being ended and its end write-back is
issued (R36). Its own composition start and copy start are in hand no longer: the settings load and the Resource
Table read that they have in hand are withdrawn (the model's choice, log entries 52 and 53). -/
def Chip.decideEnd (state : TicketState) (outcome : Outcome) (c : Chip) : Chip :=
  match c.job.current with
  | none => c
  | some t =>
    let e : EndWriteBack :=
      { ticket := t, state := state, result := { c.job.result with outcome := outcome }
        failed := false, remake := false }
    let c1 := c.withdraw .job fun p => p.isResourceTable || p.isLoadFor .copyStart
    { c1 with job := { c1.job with
        current := none, ending := some e, copyInHand := 0, starting := false, faulted := false
        compositionStart := none, samplingReported := false } }.askEndWrites e

/-- After a current ticket's end the job state is DRY, unless a presentation or AWAIT_TAKE is in flight
(R30). -/
def Chip.dryUnlessPresenting (c : Chip) : Chip :=
  match c.job.jobState with
  | .present => c
  | .awaitTake => c
  | _ => c.becomeDry

/-! ## Presentation -/

/-- AWAIT_TAKE is entered; it is left at once when the debounced TAKEN state reads no label (R142). -/
def Chip.enterAwaitTake (c : Chip) : Chip :=
  let c' := { c with job := { c.job with jobState := .awaitTake } }
  if c.scanner.taken.debounced then c' else c'.settleJobState

/-- A presentation has ended, or counts as finished (R30, R34): AWAIT_TAKE follows for PEEL, but not in
STOPPING. -/
def Chip.presentationDone (c : Chip) : Chip :=
  if c.motion.values.presentation = .peel ∧ c.engine.state ≠ .stopping then c.enterAwaitTake
  else c.settleJobState

/-- A presentation feed of Present Distance lines is given (R140). -/
def Chip.beginPresentation (c : Chip) : Chip :=
  let c' := { c with
    job := { c.job with jobState := .present }
    motion := { c.motion with
      operation := if c.motion.values.presentDistance = 0 then .none
        else .presentation c.motion.values.presentDistance } }
  if c.motion.values.presentDistance = 0 then c'.presentationDone else c'

/-! ## Copies -/

/-- The start conditions that every ticket shares, presentation apart (R31). -/
def Chip.startable (c : Chip) : Bool :=
  decide (c.engine.state = .running) && decide (c.protection.test = .idle) && decide (c.protection.gate = .opened)

/-- The start conditions of the current ticket's copy or feed (R31). -/
def Chip.startConditions (c : Chip) : Bool :=
  match c.job.current with
  | none => false
  | some t =>
    c.startable && decide (c.job.jobState = .ready)
      && (decide (t.kind ≠ .print) || decide (c.protection.thermal = .normal))

/-- A copy of the current ticket has completed with a signature (R33). -/
def RunningResult.complete (signature copy : Nat) (r : RunningResult) : RunningResult :=
  { r with
    copiesCompleted := r.copiesCompleted + 1
    lastSignature := signature
    firstSignature := if copy = 1 then signature else r.firstSignature }

/-- What follows a completed copy, by the Presentation handed at its start (R34). `ended` when the ticket's
end was decided. -/
def Chip.afterCopy (ended : Bool) (c : Chip) : Chip :=
  if c.engine.state = .stopping then c.settleJobState
  else match c.motion.values.presentation with
    | .peel => c.beginPresentation
    | .tear =>
      if ended ∨ ¬ (c.startable ∧ c.protection.thermal = .normal) then c.beginPresentation
      else c.settleJobState
    | .none => c.settleJobState

/-- The Burn Controller reports the copy in hand complete (R33, R34, R42). -/
def Chip.copyComplete (signature : Nat) (c : Chip) : Chip :=
  match c.job.current with
  | none => c
  | some t =>
    let c1 := c.report (RunningResult.complete signature c.job.copyInHand)
    if c1.job.result.copiesCompleted = t.copies then (c1.decideEnd .done .ok).afterCopy true
    else if c.engine.state = .stopping then ((c1.flush).decideEnd .cancelled .stopped).afterCopy true
    else { c1 with job := { c1.job with copyInHand := c1.job.copyInHand + 1 } }.afterCopy false

/-! ## The chain walk -/

/-- The chain walk begins, once no promotion is in flight and the State write of a ticket being ended has
completed (R40, R27). -/
def Chip.tryWalk (c : Chip) : Chip :=
  if c.job.walkWaiting && decide (c.job.activity = .none) && decide (c.job.ending = none) then
    { c with job := { c.job with walkWaiting := false, activity := .walk } }.ask .job
      (readAccess .walkLink c.job.link 4)
  else c

/-- The walk steps on the Held Ticket's Next (R41). -/
def Chip.stepWalk (c : Chip) : Chip := c.ask .job (readAccess .walkLink c.job.link 4)

/-- The walk ends; its end is a look trigger (R41, R24). -/
def Chip.endWalk (c : Chip) : Chip := { c with job := { c.job with activity := .none } }.lookTrigger

/-! ## Cancelling and stopping a ticket -/

/-- CANCEL TICKET with a ticket current (R39). -/
def Chip.cancelCurrent (c : Chip) : Chip :=
  match c.job.current with
  | none => c
  | some _ =>
    let presenting := decide (c.job.jobState = .present) && decide (c.engine.state ≠ .halted)
    let c1 := if c.motion.state = .still then c else c.report RunningResult.addDwell
    let c2 := ((c1.stopMotion).flush).abandonBurn
    let c3 := (c2.decideEnd .cancelled .cancelled).dryUnlessPresenting
    if presenting then c3.presentationDone else c3

/-- The current ticket is ended by STOP at once (R42). -/
def Chip.stopCurrent (c : Chip) : Chip :=
  match c.job.current with
  | none => c
  | some _ => (c.flush).decideEnd .cancelled .stopped

/-- STOP taken in RUNNING, for the current ticket, by the job state (R42). -/
def Chip.stopByJobState (c : Chip) : Chip :=
  match c.job.jobState with
  | .dry => c
  | .ready => c.stopCurrent.dryUnlessPresenting
  | .align =>
    { c.stopCurrent.dryUnlessPresenting with motion := c.motion.stopServing }.settleMotion
  | .print => c
  | .present => c.stopCurrent
  | .awaitTake => c.stopCurrent.settleJobState
  | .feeding => c
  | .calibrating => c

/-! ## Taking a ticket -/

/-- A valid ticket's TAKEN write has completed (R29): it becomes current and the Held Ticket, its running
result is zero, the dry mark and the low mark are cleared, and copy 1 of a PRINT ticket reaches
composition start. -/
def Chip.takeTicket (t : Ticket) (c : Chip) : Chip :=
  let c1 := { c with
    job := { c.job with
      current := some t
      nextBuffer := .empty
      result := .zero
      copyInHand := 1
      dryMark := false
      jobState := match c.job.jobState with
        | .present => .present
        | .awaitTake => .awaitTake
        | _ => .ready }
    scanner := { c.scanner with lowMark := false } }
  let c2 := c1.hold t.addr .heldWrite
  if t.kind = .print then c2.startComposition 1 else c2

/-- A ticket is ended FAULTED (R45, R46). -/
def Chip.faultCurrent (c : Chip) : Chip :=
  match c.job.current with
  | none => c
  | some _ => (c.decideEnd .faulted .fault).dryUnlessPresenting

/-- What STOP and CANCEL CHAIN, met by a promotion past its re-read, do once the ticket is current: they
act as on a ticket current in READY (R27). Where both have been met, the cancel acts first whatever their
order (the model's choice, log entry 42); and a STOP acts even when a halt and RESUME have come since (the model's
choice, log entry 49). -/
def Chip.meetTaken (c : Chip) : Chip :=
  let c1 := if c.job.promoCancel then c.cancelCurrent else c
  if c.job.promoStop then
    if c.engine.stopWaiting then c1.faultCurrent
    else if c1.job.current.isSome then c1.stopCurrent.dryUnlessPresenting else c1
  else c1

/-! ## Copy, FEED and CALIBRATE starts -/

/-- The snapshot's media values for Motion, with a target step (R7, R135). -/
def Settings.motionValues (s : Settings) (target : Nat) : MotionValues :=
  { mediaKind := s.mediaKind, presentation := s.presentation, presentDistance := s.presentDistance
    sensorOffset := s.sensorOffset, topAdjust := s.topAdjust, maxGapLength := s.maxGapLength
    maxSearch := s.maxSearch, calibrateLength := s.calibrateLength, speedTable := s.speedTable
    rampLines := s.rampLines, defaultSpeed := s.defaultSpeed, target := target }

/-- The snapshot's media values for the Scanner (R7). -/
def Settings.mediaValues (s : Settings) : MediaValues :=
  { mediaKind := s.mediaKind, threshold := s.mediaThreshold, hysteresis := s.mediaHysteresis
    printMethod := s.printMethod, ribbonWindow := s.ribbonWindow, ribbonMin := s.ribbonMin
    ribbonLowCounts := s.ribbonLowCounts }

/-- The snapshot's burn values (R7). -/
def Settings.burnValues (s : Settings) : BurnValues :=
  { nominalBurn := s.nominalBurn, heatTable := s.heatTable, historyFactors := s.historyFactors
    historyExpiry := s.historyExpiry, powerBudget := s.powerBudget }

/-- The snapshot's protection limits (R7). -/
def Settings.limits (s : Settings) : ProtectionLimits :=
  { hold := s.holdLimit, resume := s.resumeLimit, trip := s.tripLimit, supplyLow := s.supplyLow }

/-- A copy, FEED or CALIBRATE start that hands over another Media Kind than the one handed over before it
restarts classification (R156). -/
def SensorScanner.meetKind (kind : MediaKind) (s : SensorScanner) : SensorScanner :=
  if kind = s.values.mediaKind then s else { s with mediaState := .unknown, candidate := none }

/-- The values of the snapshot are handed to the blocks (R7), with the target step. -/
def Chip.handover (s : Settings) (target : Nat) (c : Chip) : Chip :=
  { c with
    motion := { c.motion with values := s.motionValues target }
    scanner := { c.scanner with values := s.mediaValues }
    burn := { c.burn with values := s.burnValues }
    protection := { c.protection with limits := some s.limits } }

/-- A PRINT ticket's copy starts, its load and handover done (R31 steps 3 and 4, R112). -/
def Chip.beginCopy (t : Ticket) (s : Settings) (c : Chip) : Chip :=
  { c with
    burn := { c.burn with darkness := t.darkness.getD s.defaultDarkness }
    job := { c.job with
      jobState := .align
      result := if c.job.copyInHand = 1 then { c.job.result with headTemperature := c.scanner.therm.toNat }
        else c.job.result }
    motion := c.motion.giveAlignment }

/-- A FEED ticket starts (R37). -/
def Chip.beginFeed (t : Ticket) (c : Chip) : Chip :=
  { c with
    job := { c.job with jobState := .feeding, result := { c.job.result with measuredPitch := 0 } }
    motion :=
      if t.feedInLabels ∧ c.motion.values.mediaKind ≠ .continuous then c.motion.giveLabelFeed t.feedCount
      else c.motion.giveLineFeed t.feedCount }

/-- A CALIBRATE ticket starts (R38, R153): its Measured Pitch is 0 until phase 5 gives one. -/
def Chip.beginCalibration (c : Chip) : Chip :=
  { c with
    job := { c.job with
      jobState := .calibrating, samplingReported := false, result := { c.job.result with measuredPitch := 0 } }
    scanner := { c.scanner with sampling := none }
    motion := c.motion.giveCalibration }

/-- The settings load of a copy, FEED or CALIBRATE start has completed or been discarded, and the start
goes on if its conditions still hold (R31, R168). -/
def Chip.proceedStart (c : Chip) : Chip :=
  let c1 := { c with job := { c.job with starting := false } }
  match c.job.current, c.job.snapshot with
  | some t, some s =>
    if c.startConditions then
      let c2 := { c1 with scanner := c1.scanner.meetKind s.mediaKind }.handover s (t.speed.getD s.defaultSpeed)
      match t.kind with
      | .print => (c2.beginCopy t s).settleMotion
      | .feed => (c2.beginFeed t).settleMotion
      | .calibrate => c2.beginCalibration.settleMotion
    else c1
  | _, _ => c1

/-! ## Ends of feeds and calibrations -/

/-- A FEED ticket's feed, or a calibration, has ended: the ticket ends DONE (R37, R38). -/
def Chip.feedComplete (outcome : Outcome) (c : Chip) : Chip := (c.decideEnd .done outcome).becomeDry

/-- The calibration fields in force are taken into the running result (R38). -/
def Chip.noteCalibration (c : Chip) : Chip :=
  c.report fun r => { r with
    calibrationThreshold := c.scanner.calibratedThreshold
    calibrationHysteresis := c.scanner.calibratedHysteresis }

/-- A calibration ends with a pitch, or 0 (R38). -/
def Chip.endCalibration (outcome : Outcome) (pitch : Nat) (c : Chip) : Chip :=
  ({ c with motion := { c.motion with operation := .none } }.report fun r => { r with measuredPitch := pitch }).feedComplete
    outcome

/-- Phase 1 of a calibration has ended, with the least and greatest sample values (R38 phases 2 to 5). -/
def Chip.calibrationSampled (least greatest : Nat) (c : Chip) : Chip :=
  let c1 := { c with job := { c.job with samplingReported := false } }.report fun r =>
    { r with sensorMin := least, sensorMax := greatest }
  if greatest - least < 64 then (c1.noteCalibration).endCalibration .lowContrast 0
  else
    let c2 := { c1 with scanner := { c1.scanner with
      calibratedThreshold := (least + greatest) / 2
      calibratedHysteresis := min 63 ((greatest - least) / 8) } }.noteCalibration
    if c.motion.values.mediaKind = .continuous then c2.endCalibration .ok 0
    else { c2 with
      scanner := { c2.scanner with mediaState := .unknown, candidate := none }
      motion := { c2.motion with
        edgeQueue := [], lastEdge := none, gapRun := 0, searchCount := 0, operation := .edgeSearch none 0 } }

end Sys2Proof.Machine
end

