-- ==== Sys2Proof/Machine/BurnOps.lean ====
section
/-! DEFINITION. The Burn Controller's operations (06_burn_control): burn state, burn time, phases, burn
groups, signature, the line start and the burn end. -/

namespace Sys2Proof.Machine

open Sys2Proof

/-- Burn states (R107). -/
inductive BurnState where
  | idle | loaded | burning
  deriving DecidableEq, Repr

/-- The burn state, derived from the burn in progress and the next-line register (R107). -/
def BurnController.state (b : BurnController) : BurnState :=
  match b.plan with
  | some _ => .burning
  | none =>
    match b.register with
    | some (_, .shifted) => .loaded
    | _ => .idle

/-- A shift is in flight (R108). -/
def BurnController.isShifting (b : BurnController) : Bool :=
  match b.register with
  | some (_, .shifting _) => true
  | _ => false

/-- The darkened time T1 (R113): the multiplier is 128 + 4 (d - 15), that is 68 + 4 d. -/
def darkenedTime (nominal darkness : Nat) : Nat := nominal * (68 + 4 * darkness) / 128

/-- The heat factor Ft at a THERM code (R114). -/
def heatFactor (table : List Nat) (code : Nat) : Nat :=
  let lo : Int := table.getD (code / 64) 0
  let hi : Int := table.getD (code / 64 + 1) 0
  (lo + ((hi - lo) * ((code % 64 : Nat) : Int) + 32) / 64).toNat

/-- The burn time T at line period `period` (R112 to R115). -/
def BurnValues.burnTime (v : BurnValues) (darkness code period : Nat) : Nat :=
  clamp 20 (period - 10) (darkenedTime v.nominalBurn darkness * heatFactor v.heatTable code / 256)

/-- The phase times A, B, C and D of burn time `t` (R116). -/
def phaseTimes (factors : List Nat) (t : Nat) : List Nat :=
  let f := fun k => factors.getD k 0
  [t * (f 0 - f 1) / 256, t * (f 1 - f 2) / 256, t * (f 2 - f 3) / 256, t * f 3 / 256]

/-- Add a segment of `n` set dots to the groups, the last of which is open (R117). -/
def joinGroup (budget segment n : Nat) : List BurnGroup → List BurnGroup
  | [] => [{ segments := [segment], count := n }]
  | [g] =>
    if g.count + n ≤ budget then [{ segments := g.segments ++ [segment], count := g.count + n }]
    else [g, { segments := [segment], count := n }]
  | g :: gs => g :: joinGroup budget segment n gs

/-- The burn groups of a line (R117). -/
def burnGroups (budget : Nat) (dots : Dots) : List BurnGroup :=
  (List.range 4).foldl (fun gs k => joinGroup budget k (countSegment dots k) gs) []

/-- The phases that a burn runs, in order; a phase of time 0 passes at once (R118). -/
def burnPhases (groups : Nat) (times : List Nat) : List BurnPhase :=
  (List.range groups).flatMap fun g =>
    (times.zipIdx.filter fun p => decide (p.1 ≠ 0)).map fun p => { group := g, phase := p.2, time := p.1 }

/-- Take the bytes of a line into the signature sums (R121). -/
def addToSums : List Byte → Nat × Nat → Nat × Nat
  | [], sums => sums
  | b :: bs, (byteSum, total) =>
    let byteSum' := (byteSum + b.toNat) % 255
    addToSums bs (byteSum', (total + byteSum') % 255)

/-- The signature sums after a line is latched; a FIRST line begins them from 0 (R121). -/
def BurnController.sumsWith (b : BurnController) (r : LineRecord) : Nat × Nat :=
  addToSums (rowBytes r.dots) (if r.first then (0, 0) else (b.byteSum, b.runningTotal))

/-- The signature of the lines taken in so far (R121). -/
def BurnController.signature (b : BurnController) : Nat := 256 * b.runningTotal + b.byteSum

/-- The history has expired at a line start now: there is no last line start, or it lies more than History
Expiry back (R111). -/
def BurnController.historyExpired (now : Nat) (b : BurnController) : Bool :=
  match b.lastLineStart with
  | none => true
  | some t => decide (1000 * b.values.historyExpiry < now - t)

/-- The latch of a line start, with the history check and the signature (R109 steps 1, 2 and 6). -/
def BurnController.latch (now : Nat) (r : LineRecord) (b : BurnController) : BurnController :=
  let sums := b.sumsWith r
  { b with
    register := none
    latched := some r
    lastCopy := r.copy
    lastLine := r.line
    previousRow := if b.historyExpired now then 0 else b.previousRow
    rowBefore := if b.historyExpired now then 0 else b.rowBefore
    lastLineStart := some now
    byteSum := sums.1
    runningTotal := sums.2 }

/-- The plan of the burn of a latched line, or none when every phase time is 0 (R109 steps 3 to 5, R118). -/
def BurnController.planFor (now code period : Nat) (r : LineRecord) (b : BurnController) : Option BurnPlan :=
  let t := b.values.burnTime b.darkness code period
  let times := phaseTimes b.values.historyFactors t
  let groups := burnGroups b.values.powerBudget r.dots
  match burnPhases groups.length times with
  | [] => none
  | p :: ps => some
      { burnTime := t, phases := times, groups := groups, previous := b.previousRow, before := b.rowBefore
        now := p, phaseEnd := now + p.time, left := ps }

/-- The burn ends: the strobes are off and the history rows move on (R120 steps 1 and 2). -/
def BurnController.finish (b : BurnController) : BurnController :=
  match b.latched with
  | none => { b with plan := none }
  | some r => { b with plan := none, rowBefore := b.previousRow, previousRow := r.dots }

/-- The burn end is reported to Motion, and a LAST line's copy completion to the Job Controller (R120). -/
def Chip.endBurn (c : Chip) : Chip :=
  let c1 := { c with burn := c.burn.finish }.checkDwell
  match c.burn.latched with
  | none => c1
  | some r => if r.last then c1.copyComplete c.burn.signature else c1

/-- A line start with line period `period` (R109). -/
def Chip.lineStart (period : Nat) (c : Chip) : Chip :=
  match c.burn.register with
  | some (r, .shifted) =>
    let b := c.burn.latch c.now r
    let groups := burnGroups b.values.powerBudget r.dots
    let plan := b.planFor c.now c.scanner.therm.toNat period r
    let c1 := { c with burn := { b with plan := plan } }
    let c2 := if 1 < groups.length then
        c1.report fun x => { x with splitLines := saturate8 (x.splitLines + 1) }
      else c1
    match plan with
    | some _ => c2
    | none => c2.endBurn
  | _ => c

/-- Dots of a class that a phase energizes: phase A those of class 0, B of 0 and 1, C of 0 to 2, D all
(R116, R110). -/
def phaseDots (previous before : Dots) : Nat → Dots
  | 0 => ~~~previous &&& ~~~before
  | 1 => ~~~previous
  | 2 => ~~~(previous &&& before)
  | _ => BitVec.allOnes 1280

/-- The dots that the burn in progress energizes: those that the phase selects of the latched line, in the
segments of the group (R118). -/
def BurnController.strobed (b : BurnController) : Dots :=
  match b.plan, b.latched with
  | some plan, some r =>
    match plan.groups[plan.now.group]? with
    | some g =>
      r.dots &&& phaseDots plan.previous plan.before plan.now.phase
        &&& dotsOf fun d => g.segments.contains (d / 320)
    | none => 0
  | _, _ => 0

/-- The dot under test, while its pulse is on (R171). -/
def TestState.strobed : TestState → Dots
  | .testing p =>
    match p.step with
    | .measuring (.on _) _ => dotsOf fun d => d == p.dot
    | _ => 0
  | _ => 0

/-- The head dots energized through the gate at this moment (R163): by the burn in progress, which a test waiting
for the link lets run to its end (R118, R125), or the dot under test (R171). -/
def Chip.energized (c : Chip) : Dots :=
  if c.protection.gate = .closed then 0 else c.burn.strobed ||| c.protection.test.strobed

end Sys2Proof.Machine
end

