-- ==== Sys2Proof/Machine/ScannerOps.lean ====
section
/-! DEFINITION. The Sensor Scanner's operations (08_sensor_scanner) and what its results lead to in the
Motion Controller, the Protection Unit and the dot test: requests, the next conversion, classification,
edges, the gap run, trips, thermal hold, the ribbon windows, and the judging of a dot. -/

namespace Sys2Proof.Machine

open Sys2Proof

/-! ## The converter -/

/-- The conversion the idle rotation starts next (R151). -/
def Rotating.conversion : Rotating → Conversion
  | .therm => .therm
  | .supply => .supply

/-- The conversion a request asks for. -/
def Request.conversion : Request → Conversion
  | .media position marked => .media position marked
  | .current => .current

/-- The conversion in flight; an IDLE converter has left IDLE at once for the rotation due (R149). -/
def SensorScanner.inFlight (s : SensorScanner) : Conversion :=
  match s.converter with
  | .converting what _ => what
  | .idle => s.rotation.conversion

/-- Start a conversion (R149). -/
def SensorScanner.convert (now : Nat) (what : Conversion) (s : SensorScanner) : SensorScanner :=
  { s with converter := .converting what (now + Config.conversionTime) }

/-- A request arrives (R152). -/
def SensorScanner.request (now : Nat) (r : Request) (s : SensorScanner) : SensorScanner :=
  match s.inFlight, r with
  | .therm, _ => s.convert now r.conversion
  | .supply, _ => s.convert now r.conversion
  | .media _ _, .media position marked =>
    match s.converter with
    | .converting _ done => { s with converter := .converting (.media position marked) done }
    | .idle => s
  | .current, .current => s
  | .media _ _, .current => { s with waiting := s.waiting ++ [r] }
  | .current, .media _ _ => { s with waiting := s.waiting ++ [r] }

/-- The next conversion is chosen: the oldest waiting request, or the rotation due (R151). -/
def SensorScanner.chooseNext (now : Nat) (s : SensorScanner) : SensorScanner :=
  match s.waiting with
  | r :: rs => { s with waiting := rs }.convert now r.conversion
  | [] => s.convert now s.rotation.conversion

/-- The pulse of the dot under test is switched on when its CURRENT conversion starts (R171). -/
def Chip.startPulse (c : Chip) : Chip :=
  match c.protection.test with
  | .testing p =>
    match p.step, c.scanner.inFlight with
    | .measuring .waiting code, .current =>
      { c with protection := { c.protection with
          test := .testing { p with step := .measuring (.on (c.now + p.pulse)) code } } }
    | _, _ => c
  | _ => c

/-! ## Edges and the gap run -/

/-- The second top edge of a calibration's edge search has been queued: its print start becomes the target,
reached at once when it is not after the position (R144). -/
def Chip.calibrationEdge (e : Position) (pitch : Nat) (c : Chip) : Chip :=
  let target := c.motion.printStart e
  if isAfter target c.motion.position then
    { c with motion := { c.motion with operation := .edgeSearch (some target) pitch } }
  else
    { c with motion := { c.motion with edgeQueue := c.motion.edgeQueue.drop 2 } }.endCalibration .ok pitch

/-- An edge has been appended to the Edge Queue: a search may find its target (R137, R139, R144). -/
def Chip.edgeQueued (e : Position) (pitch : Nat) (c : Chip) : Chip :=
  match c.motion.operation with
  | .align none serving =>
    let (m, target) := c.motion.seek
    { c with motion := { m with operation := .align target serving } }
  | .labelFeed left none =>
    let (m, target) := c.motion.seek
    { c with motion := { m with operation := .labelFeed left target } }
  | .edgeSearch none _ => if c.motion.edgeQueue.length = 2 then c.calibrationEdge e pitch else c
  | _ => c

/-- A target just found returns the search count to 0 (R139). -/
def Chip.clearSearch (c : Chip) : Chip :=
  match c.motion.operation with
  | .align (some _) _ => { c with motion := { c.motion with searchCount := 0 } }
  | .labelFeed _ (some _) => { c with motion := { c.motion with searchCount := 0 } }
  | _ => c

/-- Whether a pitch just measured is taken into the running result (R35): a CALIBRATE ticket takes only that of
its edge search's second edge (R38). -/
def Chip.keepsPitch (c : Chip) : Bool :=
  match c.job.jobState, c.motion.operation with
  | .calibrating, .edgeSearch none _ => true
  | .calibrating, _ => false
  | _, _ => true

/-- A top edge at position `e` is reported (R136): a duplicate is discarded; an accepted edge gives its
pitch, becomes the last edge, and joins the queue when there is room. -/
def Chip.topEdge (e : Position) (c : Chip) : Chip :=
  let duplicate := match c.motion.lastEdge with
    | none => false
    | some l => !isAfter e (l + 2)
  if duplicate then c
  else
    let c1 := match c.motion.lastEdge with
      | none => c
      | some l =>
        let pitch := saturate16 (e - l).toNat
        { c with motion := { c.motion with measuredPitch := pitch } }.report
          fun r => if c.keepsPitch then { r with measuredPitch := pitch } else r
    let c2 := { c1 with motion := { c1.motion with lastEdge := some e } }
    if c2.motion.edgeQueue.length < Config.edgeQueueCapacity then
      let c3 := { c2 with motion := { c2.motion with edgeQueue := c2.motion.edgeQueue ++ [e] } }
      let pitch := match c.motion.lastEdge with
        | none => 0
        | some _ => c3.motion.measuredPitch
      (c3.edgeQueued e pitch).clearSearch
    else c2

/-- The gap run counts the reports with media state GAP, and MEDIA_OUT is reported while it stands above
Max Gap Length (R145). -/
def Chip.countGap (state : MediaState) (c : Chip) : Chip :=
  let run := if state = .gap then c.motion.gapRun + 1 else 0
  let c1 := { c with motion := { c.motion with gapRun := run } }
  if state = .gap ∧ c.motion.values.maxGapLength < run then c1.fault .mediaOut else c1

/-- A sample report reaches Motion: the media state after the sample, and the position of a top edge that
it confirmed (R136, R145). -/
def Chip.sampleReport (state : MediaState) (edge : Option Position) (c : Chip) : Chip :=
  let c1 := match edge with
    | none => c
    | some e => c.topEdge e
  (c1.settleMotion).countGap state

/-! ## Classification -/

/-- The sample value of a MEDIA code (R153). -/
def MediaValues.sampleValue (v : MediaValues) (code : Code) : Nat :=
  if v.mediaKind = .mark then 1023 - code.toNat else code.toNat

/-- The active threshold (R154). -/
def SensorScanner.threshold (s : SensorScanner) : Nat :=
  if s.values.threshold = 0 then s.calibratedThreshold else s.values.threshold

/-- The active hysteresis (R154). -/
def SensorScanner.hysteresis (s : SensorScanner) : Nat :=
  if s.values.threshold = 0 then s.calibratedHysteresis else s.values.hysteresis

/-- The side a sample value lies on, or none in the band (R154). -/
def SensorScanner.sideOf (s : SensorScanner) (value : Nat) : Option Side :=
  if min 1023 (s.threshold + s.hysteresis) < value then some .gap
  else if value < s.threshold - s.hysteresis then some .label
  else none

/-- The media state of a side. -/
def Side.state : Side → MediaState
  | .label => .label
  | .gap => .gap

/-- Classify a sample at a position (R155): the Scanner after it, and the position of a top edge that it
confirmed. -/
def SensorScanner.classify (value : Nat) (position : Position) (s : SensorScanner) :
    SensorScanner × Option Position :=
  let fresh := fun (side : Option Side) =>
    match side with
    | none => none
    | some d => if d.state = s.mediaState then none else some (d, position)
  match s.candidate, s.sideOf value with
  | none, side => ({ s with candidate := fresh side }, none)
  | some (d, at0), side =>
    if side = some d then
      ({ s with mediaState := d.state, candidate := none },
        if s.mediaState = .gap ∧ d = .label then some at0 else none)
    else ({ s with candidate := fresh side }, none)

/-- Take a marked sample into the sampling record (R153). -/
def SensorScanner.takeSample (value : Nat) (s : SensorScanner) : SensorScanner :=
  { s with sampling := match s.sampling with
      | none => some (value, value)
      | some (least, greatest) => some (min least value, max greatest value) }

/-- A request marked for sampling is still waiting. -/
def SensorScanner.marksWaiting (s : SensorScanner) : Bool :=
  s.waiting.any fun r =>
    match r with
    | .media _ marked => marked
    | .current => false

/-- Phase 1 of a calibration ends when its last step has been reported and its last marked conversion has
completed (R153). -/
def Chip.checkSampled (c : Chip) : Chip :=
  if c.job.samplingReported ∧ c.scanner.marksWaiting = false then
    match c.scanner.sampling with
    | none => c
    | some (least, greatest) => (c.calibrationSampled least greatest).settleMotion
  else c

/-- A MEDIA conversion has completed (R150, R153, R155). -/
def Chip.mediaSample (code : Code) (position : Position) (marked : Bool) (c : Chip) : Chip :=
  let value := c.scanner.values.sampleValue code
  if marked then { c with scanner := c.scanner.takeSample value }.checkSampled
  else
    let (s, edge) := c.scanner.classify value position
    { c with scanner := s }.sampleReport s.mediaState edge

/-! ## THERM and SUPPLY -/

/-- The thermal state is judged on a THERM code (R168). -/
def Chip.judgeThermal (l : ProtectionLimits) (code : Code) (c : Chip) : Chip :=
  match c.protection.thermal with
  | .normal =>
    if l.hold ≤ code.toNat then
      { c.raise .hold with protection := { c.protection with thermal := .hold } }
    else c
  | .hold =>
    if code.toNat ≤ l.resume then { c with protection := { c.protection with thermal := .normal } } else c

/-- A THERM conversion has completed (R168, R165). -/
def Chip.judgeTherm (code : Code) (c : Chip) : Chip :=
  match c.protection.limits with
  | none => c
  | some l =>
    let c1 := c.judgeThermal l code
    if c1.watches ∧ l.trip ≤ code.toNat then c1.trip .headTrip else c1

/-- A SUPPLY conversion has completed (R166, R165). -/
def Chip.judgeSupply (code : Code) (c : Chip) : Chip :=
  match c.protection.limits, c.protection.supply with
  | some l, .on =>
    if code.toNat < l.supplyLow then
      let c1 := { c with protection := { c.protection with lowRun := c.protection.lowRun + 1 } }
      if c1.watches ∧ 2 ≤ c1.protection.lowRun then c1.trip .supplyLow else c1
    else { c with protection := { c.protection with lowRun := 0 } }
  | _, _ => c

/-! ## The dot test -/

/-- The bytes of a passed test's publication are asked for, in order (R172). -/
def Chip.publish (set : Dots) (c : Chip) : Chip :=
  ((c.ask .engine (writeAccess .publishMap (.area 0x1B0) (rowBytes set))).ask .engine
    (writeAccess .publishCount (.area 0x008) (leBytes 2 (countDots set)))).ask .engine
    (writeAccess .publishPassed (.area 0x00A) (leBytes 1 1))

/-- A dot test ends as PASSED with its new set (R172). -/
def Chip.testPassed (set : Dots) (c : Chip) : Chip :=
  ({ c with
    protection := { c.protection with badDots := set, test := .idle, report := .passed }
    burn := c.burn.returnLink c.now }.examineSupply).publish set

/-- The dot under test is judged on its CURRENT code (R171 steps 3 and 4). -/
def Chip.judgeDot (p : TestProgress) (code : Code) (c : Chip) : Chip :=
  let set :=
    if code.toNat < p.currentMin ∨ p.currentMax < code.toNat then p.newSet ||| dotsOf fun d => d == p.dot
    else p.newSet
  if 1279 ≤ p.dot then c.testPassed set
  else { c with protection := { c.protection with
      test := .testing { p with
        dot := p.dot + 1, newSet := set, step := .shifting (c.now + Config.shiftTime) } } }

/-- A CURRENT conversion has completed: its code serves the dot under test (R150, R171). -/
def Chip.takeCurrent (code : Code) (c : Chip) : Chip :=
  match c.protection.test with
  | .testing p =>
    match p.step with
    | .measuring .ended _ => c.judgeDot p code
    | .measuring (.on t) _ => { c with protection := { c.protection with
        test := .testing { p with step := .measuring (.on t) (some code) } } }
    | _ => c
  | _ => c

/-! ## Ribbon windows -/

/-- The check at the end of a ribbon window (R159). -/
def Chip.checkRibbon (c : Chip) : Chip :=
  let v := c.scanner.values
  let count := c.scanner.ribbonCount.natAbs
  let c1 := { c with scanner := { c.scanner with windowLines := 0, ribbonCount := 0 } }
  if count < v.ribbonMin then c1.fault .ribbonOut
  else if v.ribbonLowCounts ≠ 0 ∧ v.ribbonLowCounts < count ∧ c.scanner.lowMark = false then
    { c1.raise .ribbonLow with scanner := { c1.scanner with lowMark := true } }
  else c1

/-- A line start is counted in the ribbon window while the Print Method is TRANSFER (R159). `first` at the
line start of line 0. -/
def Chip.ribbonLine (first : Bool) (c : Chip) : Chip :=
  if c.scanner.values.printMethod = .direct then c
  else if first then { c with scanner := { c.scanner with windowLines := 0, ribbonCount := 0 } }
  else
    let c1 := { c with scanner := { c.scanner with windowLines := c.scanner.windowLines + 1 } }
    if c.scanner.values.ribbonWindow ≤ c.scanner.windowLines + 1 then c1.checkRibbon else c1

end Sys2Proof.Machine
end

