-- ==== Sys2Proof/Machine/ComposerOps.lean ====
section
/-! DEFINITION. The Composer's operations in the part (03_the_composer): the build of a copy's Pending
Object List, the entries of a line, drawing, and the append of the completed line, each going on from the
read of job memory it waited for. -/

namespace Sys2Proof.Machine

open Sys2Proof

/-- The objects of the current-ticket buffer (R50). -/
def Chip.objects (c : Chip) : List PrintObject :=
  match c.job.current with
  | none => []
  | some t => t.objects

/-- What the Composer records of a copy of a ticket (R50). -/
def Ticket.geometry (t : Ticket) (copy : Nat) : CopyGeometry :=
  { copy := copy, labelLength := t.labelLength, labelWidth := t.labelWidth, leftOffset := t.leftOffset
    mirror := t.mirror, turn := t.turn }

/-- Set what the Composer is doing. -/
def Chip.compose (work : ComposerWork) (c : Chip) : Chip := { c with composer := { c.composer with work := work } }

/-- The Composer asks for a read. -/
def Chip.askRead (purpose : Purpose) (addr length : Nat) (c : Chip) : Chip :=
  c.ask .composer (readAccess purpose (.at addr) length)

/-- The Base of the resource of an object. -/
def Chip.baseOf (o : PrintObject) (c : Chip) : Nat := (resourceFor c.job.resources o).base

/-- The address of a glyph table entry (Table 1-9). -/
def entryAddress (base index : Nat) : Nat := base + 8 + 4 * index

/-! ## The build -/

/-- The build goes on with the objects still to be examined; when the last has been examined, the list
stands and line 0 may be composed (R54). -/
def Chip.continueBuild (g : CopyGeometry) (todo : List Nat) (acc : List PendingEntry) (c : Chip) : Chip :=
  match buildFrom g c.job.resources c.objects todo acc with
  | .done list => { c with composer := { c.composer with pendingList := list, nextLine := 0, work := .ready } }
  | .read i todo acc =>
    match c.objects[i]? with
    | none => c
    | some o =>
      (c.compose (.build { index := i, header := none, codesLeft := [], widths := [], todo := todo, acc := acc })).askRead
        .buildHeader (c.baseOf o) 8

/-- The Composer is given copy `copy` of the current ticket (R50): it enters COMPOSING and builds. -/
def Chip.beginBuild (copy : Nat) (c : Chip) : Chip :=
  match c.job.current with
  | none => c
  | some t =>
    let g := t.geometry copy
    { c with composer := { c.composer with
        state := .composing, copy := some g, pendingList := [], activeList := [], nextLine := 0 } }.continueBuild
      g (List.range t.objects.length) []

/-- The sizing reads of an object go on: the next character's entry, or the box (R52). -/
def Chip.continueSizing (g : CopyGeometry) (o : PrintObject) (h : GlyphHeader) (w : BuildWork) (c : Chip) : Chip :=
  match w.codesLeft with
  | [] => c.continueBuild g w.todo (g.addBox w.index (o.stripBox h.height w.widths) w.acc)
  | code :: _ => (c.compose (.build w)).askRead .buildEntry (entryAddress (c.baseOf o) (h.lookup code)) 4

/-- A glyph set header has been read for sizing (R52). -/
def Chip.buildHeaderRead (data : List Byte) (c : Chip) : Chip :=
  match c.composer.copy, c.composer.work with
  | some g, .build w =>
    match c.objects[w.index]? with
    | none => c
    | some o =>
      let h := glyphHeaderOf data
      if h.usable (resourceFor c.job.resources o).length then
        c.continueSizing g o h { w with header := some h, codesLeft := o.codes g.copy, widths := [] }
      else c.continueBuild g w.todo (g.addBox w.index o.placeholder w.acc)
  | _, _ => c

/-- A glyph table entry has been read for sizing (R52). -/
def Chip.buildEntryRead (data : List Byte) (c : Chip) : Chip :=
  match c.composer.copy, c.composer.work with
  | some g, .build w =>
    match c.objects[w.index]?, w.header with
    | some o, some h =>
      c.continueSizing g o h { w with
        codesLeft := w.codesLeft.tail
        widths := w.widths ++ [drawnWidth (glyphEntryOf 0 data).width] }
    | _, _ => c
  | _, _ => c

/-! ## The end of a line -/

/-- The completed line joins the Line Store (R66). The copy's LAST line ends its composition, and the next
copy then reaches composition start (R68, R32); after any other line the next one may be composed. -/
def Chip.appendLine (r : LineRecord) (c : Chip) : Chip :=
  let store := c.composer.store ++ [r]
  if r.last then
    let c1 := { c with composer := { Composer.emptied .idle with store := store } }
    match c.job.current with
    | none => c1
    | some t => if r.copy < t.copies then c1.startComposition (r.copy + 1) else c1
  else
    { c with composer := { c.composer with
        state := .composing, store := store, work := .ready, nextLine := r.line + 1 } }

/-- A line has passed its steps: it is appended, or held in WAIT_ROOM while the store holds 32 (R55, R67). -/
def Chip.completeLine (r : LineRecord) (c : Chip) : Chip :=
  if c.composer.store.length < Config.lineStoreCapacity then c.appendLine r
  else { c with composer := { c.composer with state := .waitRoom, work := .hold r } }

/-! ## Drawing -/

/-- Drawing goes on with the active objects still to be applied (R59, R64). -/
def Chip.continueDraw (g : CopyGeometry) (todo : List Nat) (line : Dots) (c : Chip) : Chip :=
  match drawFrom g c.composer.nextLine c.composer.activeList todo line with
  | .done line => c.completeLine (lineRecord g c.composer.nextLine line)
  | .read i source reads todo line =>
    match reads with
    | [] => c
    | r :: _ =>
      (c.compose (.draw
        { index := i, sourceIndex := source, left := reads, got := [], todo := todo, line := line })).askRead
        .source r.1 r.2

/-- An active object's held source is replaced (R64). -/
def holdSource (w : DrawWork) (o : ObjectContext) : ObjectContext :=
  if o.index = w.index then
    let need : SourceNeed := if o.rotation.byRow then .row w.sourceIndex else .column w.sourceIndex
    { o with held := some { index := w.sourceIndex, data := sourceData need w.got } }
  else o

/-- A source read has completed (R64): the next read of the same row or column is made, or the object
holds it and drawing goes on with that object. -/
def Chip.sourceRead (data : List Byte) (c : Chip) : Chip :=
  match c.composer.copy, c.composer.work with
  | some g, .draw w =>
    let w' := { w with left := w.left.tail, got := w.got ++ [data] }
    match w'.left with
    | r :: _ => (c.compose (.draw w')).askRead .source r.1 r.2
    | [] =>
      { c with composer := { c.composer with activeList := c.composer.activeList.map (holdSource w') } }.continueDraw
        g (w.index :: w.todo) w.line
  | _, _ => c

/-! ## Entering -/

/-- Take a tally into the running result (R35). -/
def RunningResult.take (t : Tally) (r : RunningResult) : RunningResult :=
  { r with
    omittedObjects := saturate8 (r.omittedObjects + t.omitted)
    missingGlyphs := saturate8 (r.missingGlyphs + t.missing)
    badDotsUnderBars := saturate8 (r.badDotsUnderBars + t.badDots) }

/-- The pending entries of later lines. -/
def Composer.later (k : Composer) : List PendingEntry :=
  k.pendingList.filter fun e => decide (e.entryLine ≠ k.nextLine)

/-- Entering goes on with the entries of this line still to be taken; after the last, the line is drawn
from all zero (R55, R56). -/
def Chip.continueEnter (g : CopyGeometry) (todo : List PendingEntry) (c : Chip) : Chip :=
  let later := c.composer.later
  match enterFrom g c.job.resources c.protection.badDots c.objects todo c.composer.activeList .zero with
  | .done active tally =>
    { c.report (RunningResult.take tally) with
      composer := { c.composer with activeList := active, pendingList := later } }.continueDraw
      g (active.map ObjectContext.index) 0
  | .read entry todo active tally =>
    match c.objects[entry.index]? with
    | none => c
    | some o =>
      { c.report (RunningResult.take tally) with
        composer := { c.composer with
          activeList := active
          pendingList := entry :: todo ++ later
          work := .enter
            { entry := entry, header := none, glyphs := [], left := [], entries := [], missing := 0, todo := todo } } }.askRead
        .entryHeader (c.baseOf o) 8

/-- The object being entered is omitted at its resource check (R56, R57). -/
def Chip.omitEntry (g : CopyGeometry) (w : EnterWork) (c : Chip) : Chip :=
  (c.report (RunningResult.take { omitted := 1, missing := 0, badDots := 0 })).continueEnter g w.todo

/-- The object being entered has passed its resource check: its strip is formed, its Missing Glyphs are
reported, and it joins the Active Object List (R56, R93, R96). -/
def Chip.enterStrip (g : CopyGeometry) (o : PrintObject) (h : GlyphHeader) (w : EnterWork) (c : Chip) : Chip :=
  let context := contextOf o w.entry (.strip (stripOf o (c.baseOf o) h w.glyphs w.entries))
  { c.report (RunningResult.take { omitted := 0, missing := w.missing, badDots := 0 }) with
    composer := { c.composer with activeList := insertContext context c.composer.activeList } }.continueEnter g w.todo

/-- The entry reads go on: the next distinct glyph, or the entry itself (R57, R96). -/
def Chip.continueCheck (g : CopyGeometry) (o : PrintObject) (h : GlyphHeader) (w : EnterWork) (c : Chip) : Chip :=
  match w.left with
  | [] => c.enterStrip g o h w
  | i :: _ => (c.compose (.enter w)).askRead .entryGlyph (entryAddress (c.baseOf o) i) 4

/-- A glyph set header has been read at entry (R57, R92, R93). -/
def Chip.entryHeaderRead (data : List Byte) (c : Chip) : Chip :=
  match c.composer.copy, c.composer.work with
  | some g, .enter w =>
    match c.objects[w.entry.index]? with
    | none => c
    | some o =>
      let h := glyphHeaderOf data
      if h.usable (resourceFor c.job.resources o).length then
        let codes := o.codes g.copy
        let glyphs := codes.map h.lookup
        c.continueCheck g o h { w with
          header := some h, glyphs := glyphs, left := distinct glyphs
          missing := (codes.filter fun k => !h.carries k).length }
      else c.omitEntry g w
  | _, _ => c

/-- A glyph table entry has been read at entry (R57). -/
def Chip.entryGlyphRead (data : List Byte) (c : Chip) : Chip :=
  match c.composer.copy, c.composer.work with
  | some g, .enter w =>
    match c.objects[w.entry.index]?, w.header, w.left with
    | some o, some h, i :: left =>
      let e := glyphEntryOf i data
      if e.inRange h.height (resourceFor c.job.resources o).length then
        c.continueCheck g o h { w with left := left, entries := w.entries ++ [e] }
      else c.omitEntry g w
    | _, _, _ => c
  | _, _ => c

/-! ## The next line -/

/-- The Composer composes the next line of its copy (R55), when one is to be composed. -/
def Chip.composeLine (c : Chip) : Chip :=
  match c.composer.copy, c.composer.work with
  | some g, .ready =>
    let p := c.composer.nextLine
    let staying := c.composer.activeList.filter fun o => decide (o.leaveLine + 1 ≠ p)
    { c with composer := { c.composer with activeList := staying } }.continueEnter g
      (c.composer.pendingList.filter fun e => decide (e.entryLine = p))
  | _, _ => c

end Sys2Proof.Machine
end

