-- ==== Sys2Proof/Machine/PortOps.lean ====
section
/-! DEFINITION. What each access of job memory leads to when it has completed and when a bus error has
ended it (R20, and the rules of the requesters), and the Memory Port: issue, address reach, the arbiter and
bursts (R18, R19). -/

namespace Sys2Proof.Machine

open Sys2Proof

/-! ## Settings loads and LOADING -/

/-- The last access of LOADING has completed: the values are handed over and the engine enters RUNNING
(R177), which is a look trigger (R24). -/
def Chip.finishLoading (c : Chip) : Chip :=
  let c1 := match c.job.snapshot with
    | none => c
    | some s => c.handover s s.defaultSpeed
  ({ c1 with
    job := { c1.job with jobState := .dry }
    engine := { c1.engine with state := .running } }.examineSupply).lookTrigger

/-- The dot test begins, its settings load done (R170); it is abandoned at once when the head is open or
the trip latch is set. -/
def Chip.beginTest (c : Chip) : Chip :=
  match c.protection.test, c.job.snapshot with
  | .starting, some s =>
    let progress : TestProgress :=
      { pulse := s.testPulse, currentMin := s.dotCurrentMin, currentMax := s.dotCurrentMax
        dot := 0, newSet := 0, step := .waiting }
    let c1 := { c with
      protection := { c.protection with test := .testing progress, report := .running }
      burn := { c.burn with linkRequested := true } }.examineSupply
    if c1.scanner.headClosed.debounced = false ∨ c1.protection.tripLatch then c1.abandonTest else c1
  | _, _ => c

/-- The requester of a settings load (R3). -/
def LoadPoint.requester : LoadPoint → Requester
  | .loading => .engine
  | .dotTest => .engine
  | .copyStart => .job
  | .look => .job

/-- A load point ends, and the operation that the load served goes on (R3, R4). -/
def Chip.loadPointEnds (point : LoadPoint) (c : Chip) : Chip :=
  match point with
  | .loading => c.ask .engine (readAccess .loadResources (.area 0x0B0) 256)
  | .copyStart => c.proceedStart
  | .dotTest => c.beginTest
  | .look => c.askLink

/-- The first Generation read of a load has completed: a conditional load point ends there when it equals
the last loaded Generation (R3). -/
def Chip.generationRead (point : LoadPoint) (gen : Word) (c : Chip) : Chip :=
  if point ≠ .loading ∧ c.job.lastGeneration = some gen then c.loadPointEnds point
  else c.ask point.requester (readAccess (.settingsBlock point gen) (.area 0x044) 0x68)

/-- The agreed block replaces the snapshot; a look interval already running is restarted (R4, R7). -/
def Chip.takeSettings (gen : Word) (block : List Byte) (c : Chip) : Chip :=
  let c1 := { c with job := { c.job with snapshot := some (settingsOf block), lastGeneration := some gen } }
  match c.job.lookTimer with
  | none => c1
  | some _ => { c1 with job := { c1.job with lookTimer := c1.lookDeadline } }

/-- The second Generation read of a load has completed (R4). Whether a snapshot exists is judged at the mismatch,
not at the load's first read (the model's choice, log entry 48). -/
def Chip.generationReread (point : LoadPoint) (gen : Word) (block : List Byte) (again : Word) (c : Chip) : Chip :=
  if again = gen then (c.takeSettings gen block).loadPointEnds point
  else match c.job.snapshot with
    | none => c.askGeneration point.requester point
    | some _ => c.loadPointEnds point

/-! ## Looks and fetches -/

/-- A look has read the link (R21, R23). -/
def Chip.linkRead (v : Word) (c : Chip) : Chip :=
  let c1 := { c with job := { c.job with lastLookZero := decide (v = 0) } }
  if v = 0 then (if c1.job.jobState = .dry then c1.raiseDry else c1).endLook
  else if linkGood v then c1.ask .job (readAccess (.lookHeader v) (.at v.toNat) 32)
  else { c1 with job := { c1.job with activity := .none } }.reportFault .chainAddress v

/-- The fetch of a FILED ticket begins with the header at hand (R25). -/
def Chip.startFetch (addr : Word) (header : List Byte) (c : Chip) : Chip :=
  let length := field header 8 2
  if length < 64 ∨ 4096 < length then
    let reason : RefuseReason := if ticketKindOf (field header 5 1) = none then .badKind else .badSize
    { c with job := { c.job with
        lookTimer := none, activity := .none, nextBuffer := .full addr header (.refused reason) } }
  else
    { c with job := { c.job with lookTimer := none, activity := .fetch, nextBuffer := .filling addr header } }.ask
      .job (readAccess (.fetchRest addr header) (.at (addr.toNat + 32)) (length - 32))

/-- A look has read the header of the ticket it found (R23 step 4). -/
def Chip.headerRead (addr : Word) (header : List Byte) (c : Chip) : Chip :=
  match field header 4 1 with
  | 1 => if c.engine.state = .running then c.startFetch addr header else c.endLook
  | 2 => (c.hold addr .heldWrite).askLink
  | _ => c.endLook

/-- The rest of a fetched ticket has arrived, and it is validated (R25, R26). -/
def Chip.fetched (addr : Word) (bytes : List Byte) (c : Chip) : Chip :=
  { c with job := { c.job with activity := .none, nextBuffer := .full addr bytes (validate addr bytes) } }

/-! ## Promotion -/

/-- The address of the ticket in the next-ticket buffer. -/
def NextBuffer.addr : NextBuffer → Word
  | .empty => 0
  | .filling a _ => a
  | .full a _ _ => a

/-- Empty the next-ticket buffer. -/
def Chip.emptyBuffer (c : Chip) : Chip := { c with job := { c.job with nextBuffer := .empty } }

/-- A promotion is in flight no longer. -/
def Chip.leavePromotion (c : Chip) : Chip :=
  { c with job := { c.job with activity := .none, promoStop := false, promoCancel := false, promoHalt := false } }

/-- What follows a promotion's end: a chain walk that waited for it, and a look trigger (R27, R24). -/
def Chip.afterPromotion (c : Chip) : Chip := c.tryWalk.lookTrigger

/-- A promotion's re-read of State has been served (R27). A STOP that met it empties the buffer even when a halt
and RESUME have come since (the model's choice, log entry 49). -/
def Chip.stateReread (state : Nat) (c : Chip) : Chip :=
  let addr := c.job.nextBuffer.addr
  if c.job.promoStop ∨ c.job.promoCancel then c.leavePromotion.emptyBuffer.afterPromotion
  else if c.job.promoHalt then c.leavePromotion
  else match state with
    | 1 =>
      match c.job.nextBuffer with
      | .full _ _ (.refused reason) =>
        { c with job := { c.job with activity := .promotion .refusing } }.ask .job
          (writeAccess .refuseResult (.at (addr.toNat + 0x20))
            (resultBytes { RunningResult.zero with refuseReason := reason }))
      | _ =>
        { c with job := { c.job with activity := .promotion .taking } }.ask .job
          (writeAccess .takenState (.at (addr.toNat + 4)) (leBytes 1 TicketState.taken.code))
    | 2 => (c.leavePromotion.emptyBuffer.hold addr .heldWrite).afterPromotion
    | _ => c.leavePromotion.emptyBuffer.afterPromotion

/-- A refused ticket's State write has completed (R28). -/
def Chip.refused (c : Chip) : Chip := ((c.raise .ticketEnd).leavePromotion.emptyBuffer).afterPromotion

/-- The TAKEN write has completed (R29), and STOP or CANCEL CHAIN that met the promotion acts on the ticket
now current (R27). -/
def Chip.taken (c : Chip) : Chip :=
  match c.job.nextBuffer with
  | .full _ _ (.valid t) => (c.takeTicket t).meetTaken.leavePromotion.afterPromotion
  | _ => c.leavePromotion

/-! ## The chain walk -/

/-- The walk has read the link (R41). -/
def Chip.walkLinkRead (v : Word) (c : Chip) : Chip :=
  if v = 0 then c.endWalk
  else if linkGood v then c.ask .job (readAccess (.walkHeader v) (.at v.toNat) 32)
  else (c.reportFault .chainAddress v).endWalk

/-- The walk has read a ticket's header (R41). -/
def Chip.walkHeaderRead (addr : Word) (header : List Byte) (c : Chip) : Chip :=
  match field header 4 1 with
  | 1 => c.ask .job (writeAccess (.walkResult addr) (.at (addr.toNat + 0x20))
      (resultBytes { RunningResult.zero with outcome := .cancelled }))
  | 2 => (c.hold addr .heldWrite).stepWalk
  | _ => c.endWalk

/-! ## Ends -/

/-- The State write of an end write-back has completed (R36). -/
def Chip.ended (c : Chip) : Chip :=
  ({ c.raise .ticketEnd with job := { c.job with ending := none } }.tryWalk).lookTrigger

/-! ## Completed accesses -/

/-- An access has completed; `data` is what it read. -/
def Chip.accessDone (purpose : Purpose) (data : List Byte) (c : Chip) : Chip :=
  let word := BitVec.ofNat 32 (leNat data)
  match purpose with
  | .loadHeld => c.askGeneration .engine .loading
  | .settingsFirst point => c.generationRead point word
  | .settingsBlock point gen =>
    c.ask point.requester (readAccess (.settingsSecond point gen data) (.area 0x040) 4)
  | .settingsSecond point gen block => c.generationReread point gen block word
  | .loadResources =>
    { c with job := { c.job with resources := resourcesOf data } }.ask .engine
      (readAccess .loadBadDots (.area 0x1B0) 160)
  | .loadBadDots => { c with protection := { c.protection with badDots := rowOfBytes data } }.finishLoading
  | .faultRecord => c
  | .faultRewrite => c
  | .publishMap => c
  | .publishCount => c
  | .publishPassed => c.raise .testEnd
  | .publishAbandoned => c.raise .testEnd
  | .lookLink => c.linkRead word
  | .lookHeader addr => c.headerRead addr data
  | .fetchRest addr header => c.fetched addr (header ++ data)
  | .promotionState => c.stateReread (leNat data)
  | .refuseResult => c.hold c.job.nextBuffer.addr .refuseHeld
  | .refuseHeld =>
    c.ask .job (writeAccess .refuseState (.at (c.job.nextBuffer.addr.toNat + 4)) (leBytes 1 TicketState.refused.code))
  | .refuseState => c.refused
  | .takenState => c.taken
  | .heldWrite => c
  | .walkLink => c.walkLinkRead word
  | .walkHeader addr => c.walkHeaderRead addr data
  | .walkResult addr => c.hold addr (.walkHeld addr)
  | .walkHeld addr =>
    c.ask .job (writeAccess .walkState (.at (addr.toNat + 4)) (leBytes 1 TicketState.cancelled.code))
  | .walkState => (c.raise .ticketEnd).stepWalk
  | .endResult => c
  | .endNextValue => c
  | .endState => c.ended
  | .resourceTable copy =>
    { c with job := { c.job with resources := resourcesOf data, compositionStart := none } }.beginBuild copy
  | .buildHeader => c.buildHeaderRead data
  | .buildEntry => c.buildEntryRead data
  | .entryHeader => c.entryHeaderRead data
  | .entryGlyph => c.entryGlyphRead data
  | .source => c.sourceRead data

/-! ## Bus errors -/

/-- A ticket access: a look, a ticket fetch, a State re-read, or a write of Held Ticket, results, a Next
Value or State (R20). -/
def Purpose.isTicketAccess : Purpose → Bool
  | .loadHeld => true
  | .lookLink => true
  | .lookHeader _ => true
  | .fetchRest _ _ => true
  | .promotionState => true
  | .refuseResult => true
  | .refuseHeld => true
  | .refuseState => true
  | .takenState => true
  | .heldWrite => true
  | .walkResult _ => true
  | .walkHeld _ => true
  | .walkState => true
  | .endResult => true
  | .endNextValue => true
  | .endState => true
  | _ => false

/-- The Ticket Address of a MEMORY_FAULT met on an access whose run begins at `start` (R20). -/
def Chip.faultAddress (purpose : Purpose) (start : Nat) (c : Chip) : Word :=
  if purpose.isTicketAccess then BitVec.ofNat 32 start else c.job.currentAddress

/-- No look, fetch, promotion or chain walk is in flight. -/
def Chip.endActivity (c : Chip) : Chip := { c with job := { c.job with activity := .none } }

/-- A look ends by a bus error (R23). -/
def Chip.failLook (c : Chip) : Chip := { c with job := c.job.dropLook }

/-- A Held Ticket write has failed: the new value is kept and the write is issued again after RESUME (R23). -/
def Chip.heldFailed (c : Chip) : Chip := { c with job := { c.job with heldWriteFailed := true } }

/-- A walk in flight ends by a bus error (R41), which may be that of a Held Ticket write asked for before the walk
began (the model's choice, log entry 50). -/
def Chip.dropWalk (c : Chip) : Chip :=
  if c.job.activity = .walk then (c.withdraw .job Purpose.isWalk).endActivity else c

/-- A write of a promotion has failed: the buffer is kept full (R28, R29). -/
def Chip.promotionFailed (c : Chip) : Chip := c.leavePromotion.tryWalk

/-- The remaining writes of the end write-back are not issued, and it waits for RESUME (R36). -/
def Chip.failEnd (c : Chip) : Chip :=
  let c1 := c.withdraw .job Purpose.isEnd
  { c1 with job := { c1.job with ending := c1.job.ending.map fun e => { e with failed := true } } }

/-- The later writes of a test's publication, at the head of Engine Control's queue, are left unissued
(R172). -/
def Chip.dropPublication (later : Purpose → Bool) (c : Chip) : Chip :=
  { c with port := { c.port with engineQueue := c.port.engineQueue.dropWhile fun a => later a.purpose } }

/-- MEMORY_FAULT on a Fault Record write (R179): it joins the causes with no rewrite for it, and a waiting
rewrite is not issued. The write of a first cause taken since is no rewrite, and goes on waiting (R178). With no
first cause held MEMORY_FAULT is a first cause. -/
def Chip.recordFailed (c : Chip) : Chip :=
  match c.engine.firstCause with
  | none => c.reportFault .memoryFault c.job.currentAddress
  | some _ =>
    let c1 := c.withdraw .engine fun p => decide (p = .faultRewrite)
    if c1.engine.holds .memoryFault then c1
    else { c1 with engine := { c1.engine with further := c1.engine.further ||| Cause.memoryFault.bit } }

/-- What a requester does when a bus error has ended its access, before MEMORY_FAULT is reported. One on a second
DOT TEST's settings load abandons the test that the first has begun (the model's choice, log entry 17). -/
def Chip.abandonAccess (purpose : Purpose) (c : Chip) : Chip :=
  match purpose with
  | .settingsFirst .copyStart => { c with job := { c.job with starting := false } }
  | .settingsBlock .copyStart _ => { c with job := { c.job with starting := false } }
  | .settingsSecond .copyStart _ _ => { c with job := { c.job with starting := false } }
  | .settingsFirst .dotTest => c.abandonTest
  | .settingsBlock .dotTest _ => c.abandonTest
  | .settingsSecond .dotTest _ _ => c.abandonTest
  | .settingsFirst .look => c.failLook
  | .settingsBlock .look _ => c.failLook
  | .settingsSecond .look _ _ => c.failLook
  | .lookLink => c.failLook
  | .lookHeader _ => c.failLook
  | .fetchRest _ _ => c.endActivity.emptyBuffer
  | .promotionState => c.leavePromotion.emptyBuffer.tryWalk
  | .refuseResult => c.promotionFailed
  | .refuseHeld => c.heldFailed.promotionFailed
  | .refuseState => c.promotionFailed
  | .takenState => c.promotionFailed
  | .heldWrite => c.heldFailed.dropWalk
  | .walkLink => c.endActivity
  | .walkHeader _ => c.endActivity
  | .walkResult _ => c.endActivity
  | .walkHeld _ => c.heldFailed.endActivity
  | .walkState => c.endActivity
  | .endResult => c.failEnd
  | .endNextValue => c.failEnd
  | .endState => c.failEnd
  | .resourceTable _ => { c with job := { c.job with compositionStart := none } }
  | .publishMap => (c.dropPublication fun p => decide (p = .publishCount ∨ p = .publishPassed)).raise .testEnd
  | .publishCount => (c.dropPublication fun p => decide (p = .publishPassed)).raise .testEnd
  | .publishPassed => c.raise .testEnd
  | .publishAbandoned => c.raise .testEnd
  | _ => c

/-- A bus error has ended an access whose run begins at `start` (R20). -/
def Chip.accessFailed (purpose : Purpose) (start : Nat) (c : Chip) : Chip :=
  if purpose.isRecord then c.recordFailed
  else (c.abandonAccess purpose).reportFault .memoryFault (c.faultAddress purpose start)

/-! ## The Memory Port -/

/-- The control area's address for an access issued now (R1). -/
def EngineControl.areaBase (e : EngineControl) : Nat :=
  if e.state = .stopped then e.area.toNat else e.areaInUse.toNat

/-- The byte address of an access issued now. -/
def EngineControl.locate (e : EngineControl) : Location → Nat
  | .area offset => e.areaBase + offset
  | .at addr => addr

/-- The bytes of a Fault Record write issued now (R178, R179). -/
def EngineControl.recordBytes (e : EngineControl) : List Byte :=
  match e.capture with
  | none => leBytes 32 0
  | some capture => faultRecordBytes capture e.further

/-- An access as issued now. -/
def EngineControl.issued (e : EngineControl) (a : Access) : Access :=
  { a with
    issued := true
    addr := e.locate a.location
    data := if a.purpose.isRecord then e.recordBytes else a.data }

/-- A requester whose first access has not been issued yet. -/
def MemoryPort.unissued (p : MemoryPort) : Option (Requester × Access) :=
  [Requester.job, .composer, .engine].findSome? fun q =>
    match p.queue q with
    | a :: _ => if a.issued then none else some (q, a)
    | [] => none

/-- How many accesses of a port have not been issued. -/
def MemoryPort.unissuedCount (p : MemoryPort) : Nat :=
  p.jobQueue.countP (fun a => !a.issued) + p.composerQueue.countP (fun a => !a.issued)
    + p.engineQueue.countP fun a => !a.issued

/-- How many accesses the ends of others as bus errors can still ask for: the outcome write of a dot test that is
abandoned (R173), the Fault Record write of MEMORY_FAULT, which is taken once (R178, R179), and the first read of a
chain walk that waits (R40). -/
def Chip.mayStillAsk (c : Chip) : Nat :=
  (decide (c.protection.test ≠ .idle)).toNat + (!(c.engine.firstCause.isSome && c.engine.holds .memoryFault)).toNat
    + c.job.walkWaiting.toNat

/-- How many accesses can be issued, or ended as bus errors, before nothing asked for is left to be issued. -/
def Chip.issueWork (c : Chip) : Nat := c.port.unissuedCount + c.mayStillAsk

/-- The first access of each requester is issued; one that would reach 1000000h or beyond is ended at once
as a bus error (R18). `fuel` bounds how many are issued, and ended, in one step; `Chip.settlePort` gives enough for
all of them (`Chip.issueAccesses_drains`). A withdrawn access is in hand no
longer, though a burst of its may still be in flight (the model's choice, log entry 51). -/
def Chip.issueAccesses (fuel : Nat) (c : Chip) : Chip :=
  match fuel with
  | 0 => c
  | fuel + 1 =>
    match c.port.unissued with
    | none => c
    | some (q, a) =>
      let a' := c.engine.issued a
      if Config.memoryReach < a'.addr + a'.length then
        ({ c with port := c.port.setQueue q (c.port.queue q).tail }.accessFailed a.purpose a'.addr).issueAccesses fuel
      else { c with port := c.port.setQueue q (setHead a' (c.port.queue q)) }.issueAccesses fuel

/-- A requester has a burst waiting: its first access is issued and is not the one in flight (R18). -/
def MemoryPort.waiting (q : Requester) (p : MemoryPort) : Bool :=
  match p.queue q with
  | a :: _ => a.issued
  | [] => false

/-- The rotation, starting after the requester served last (R19). -/
def Requester.rotationAfter : Requester → List Requester
  | .job => [.composer, .engine, .job]
  | .composer => [.engine, .job, .composer]
  | .engine => [.job, .composer, .engine]

/-- The arbiter's choice at a Line Store level (R19). -/
def MemoryPort.choose (level : Nat) (p : MemoryPort) : Option Requester :=
  if p.waiting .composer ∧ level < Config.lowLevel then some .composer
  else p.lastServed.rotationAfter.find? fun q => p.waiting q

/-- How many bytes a burst from `addr` carries of `left` bytes (R18). -/
def burstLength (addr left : Nat) : Nat := min left (Config.burstBytes - addr % Config.burstBytes)

/-- The next burst of a requester's first access. -/
def burstOf (q : Requester) (a : Access) : Burst :=
  let addr := a.addr + a.carried
  let length := burstLength addr (a.length - a.carried)
  { requester := q, purpose := a.purpose, start := a.addr, addr := addr, length := length, write := a.write
    data := if a.write then (a.data.drop a.carried).take length else []
    withdrawn := false }

/-- The port, when it is free, carries the arbiter's choice (R19). -/
def MemoryPort.carry (level : Nat) (p : MemoryPort) : MemoryPort :=
  match p.inFlight, p.choose level with
  | none, some q =>
    match p.queue q with
    | a :: _ => { p with inFlight := some (burstOf q a), lastServed := q }
    | [] => p
  | _, _ => p

/-- The Memory Port acts on what was asked for in this step: accesses are issued, and a burst is carried
when the port is free. -/
def Chip.settlePort (c : Chip) : Chip :=
  let c1 := c.issueAccesses c.issueWork
  { c1 with port := c1.port.carry c1.composer.store.length }

/-- The burst in flight has completed, with the bytes it read (R18). -/
def Chip.burstDone (b : Burst) (read : List Byte) (c : Chip) : Chip :=
  let c1 := { c with port := { c.port with inFlight := none } }
  if b.withdrawn then c1
  else match c1.port.queue b.requester with
    | [] => c1
    | a :: rest =>
      let a' := { a with carried := a.carried + b.length, data := if a.write then a.data else a.data ++ read }
      if a'.carried < a'.length then { c1 with port := c1.port.setQueue b.requester (a' :: rest) }
      else { c1 with port := c1.port.setQueue b.requester rest }.accessDone a.purpose a'.data

/-- Job memory has reported a bus error on the burst in flight (R20). -/
def Chip.burstFailed (b : Burst) (c : Chip) : Chip :=
  let c1 := { c with port := { c.port with inFlight := none } }
  if b.withdrawn then c1.reportFault .memoryFault (c1.faultAddress b.purpose b.start)
  else { c1 with port := c1.port.setQueue b.requester (c1.port.queue b.requester).tail }.accessFailed b.purpose b.start

end Sys2Proof.Machine
end

