-- ==== Sys2Proof/Machine/EngineOps.lean ====
section
/-! DEFINITION. Engine Control's transitions (10_engine_control_and_events): the entries to LOADING and to
STOPPED, STOP, RESUME, the two cancels, the dot test command and the two resets; and the frame in which each
command acts on the machine. -/

namespace Sys2Proof.Machine

open Sys2Proof

/-! ## The frame of a command -/

/-- A host command: taken or refused by the engine state at the moment it arrives (R176). While the reset
pin is asserted nothing is taken (log entry 7). -/
def State.command (taken : Bool) (name : RefusedCommand) (f : Chip → Chip) (s : State) :
    Host.Outcome State Fault Refusal :=
  if s.resetPin then .next s
  else if taken then .next { s with chip := (f s.chip).settlePort }
  else .next { s with chip := s.chip.refuse name }

/-- An event that may lead to accesses of job memory. One whose conditions do not hold does not occur, and
changes nothing (log entry 6). -/
def State.event (holds : Bool) (f : Chip → Chip) (s : State) : Host.Outcome State Fault Refusal :=
  if !s.resetPin && holds then .next { s with chip := (f s.chip).settlePort } else .next s

/-- An event, or a write, that leads to no access of job memory. -/
def State.inside (holds : Bool) (f : Chip → Chip) (s : State) : Host.Outcome State Fault Refusal :=
  if !s.resetPin && holds then .next { s with chip := f s.chip } else .next s

/-! ## AREA -/

/-- The bits of AREA that a write keeps: 23 to 2 (R1). -/
def areaMask : Word := 0x00FFFFFC

/-- A host write to AREA in STOPPED (R1). -/
def EngineControl.writeArea (value : Word) (e : EngineControl) : EngineControl :=
  { e with area := value &&& areaMask }

/-! ## Entry to LOADING -/

/-- The values that the entry to LOADING gives the Motion Controller (R148). -/
def MotionController.atLoading (m : MotionController) : MotionController :=
  { m with position := 0, edgeQueue := [], lastEdge := none, measuredPitch := 0, presentedLines := 0, gapRun := 0 }

/-- The Fault Record writes that wait, not issued yet, are discarded (R177, R179). -/
def MemoryPort.dropRecords (p : MemoryPort) : MemoryPort :=
  { p with engineQueue := p.engineQueue.filter fun a => !a.recordWaits }

/-- The engine enters LOADING (R177, with R1, R148, R156 and R167). A Fault Record write that still waits is
discarded at a START and at a RESUME alike: for a RESUME that enters LOADING, R180 has waiting writes go on where
R177 and R179 discard them, and discarding is the model's choice (DESIGN CHOICE, unsafe, log entry 58). -/
def Chip.enterLoading (c : Chip) : Chip :=
  ({ c with
    engine := { c.engine with
      state := .loading, areaInUse := c.engine.area, firstCause := none, further := 0 }
    job := { c.job with held := 0, heldWriteFailed := false, lastLookZero := false }
    protection := { c.protection with tripLatch := false }
    motion := c.motion.atLoading
    scanner := { c.scanner with mediaState := .unknown, candidate := none }
    port := c.port.dropRecords }.examineSupply).ask .engine (writeAccess .loadHeld (.area 0x004) (leBytes 4 0))

/-! ## Entry to STOPPED -/

/-- What the entry to STOPPED gives the Job Controller (R43). -/
def JobController.atStopped (j : JobController) : JobController :=
  { JobController.reset with
    held := j.held, dryMark := j.dryMark, lastLookZero := j.lastLookZero
    snapshot := j.snapshot, lastGeneration := j.lastGeneration, resources := j.resources }

/-- What the entry to STOPPED gives the Burn Controller: its reset values, but for the burn values and the
darkness, and for the head link while a dot test runs (R127). -/
def BurnController.atStopped (testing : Bool) (b : BurnController) : BurnController :=
  { BurnController.reset with
    values := b.values
    darkness := b.darkness
    link := if testing then b.link else .held
    linkRequested := testing && b.linkRequested }

/-- The engine enters STOPPED (R175, with R43, R74, R127, R148 and R174). A chain walk that STOP meets in LOADING
goes on with its accesses (the model's choice, log entry 46). -/
def Chip.enterStopped (c : Chip) : Chip :=
  let c1 := (c.withdraw .job Purpose.endsAtHalt).withdraw .composer (fun _ => true)
  { c1 with
    engine := { c1.engine with state := .stopped, stopWaiting := false }
    job := c1.job.atStopped
    composer := .reset
    burn := c1.burn.atStopped c1.protection.test.isTesting
    motion := { c1.motion.still with operation := .none } }.examineSupply

/-- No end write-back, promotion or chain walk is in flight (R43, R180). -/
def JobController.nothingInFlight (j : JobController) : Bool :=
  (match j.ending with
    | none => true
    | some e => e.failed)
  && (match j.activity with
    | .promotion _ => false
    | .walk => false
    | _ => true)

/-- The conditions on which STOPPING ends (R43). Motion counts as STILL there once no operation is in hand: what
STOP found in hand runs to its end first (R147, R138, R140; log entry 40). -/
def Chip.stoppingDone (c : Chip) : Bool :=
  decide (c.job.current = none) && c.job.nothingInFlight
    && decide (c.job.jobState ≠ .print ∧ c.job.jobState ≠ .feeding ∧ c.job.jobState ≠ .calibrating)
    && decide (c.motion.state = .still) && decide (c.motion.operation = .none)

/-- The conditions on which the engine enters STOPPED by itself (R43, R180). -/
def Chip.mayEnterStopped (c : Chip) : Bool :=
  match c.engine.state with
  | .stopping => c.stoppingDone
  | .halted => c.engine.stopWaiting && c.job.nothingInFlight
  | _ => false

/-! ## STOP -/

/-- A promotion is in flight. -/
def JobActivity.promoting : JobActivity → Bool
  | .promotion _ => true
  | _ => false

/-- STOP meets a promotion in flight (R27), or empties the next-ticket buffer and withdraws a fetch (R42,
R25). -/
def Chip.stopSuccessor (c : Chip) : Chip :=
  if c.job.activity.promoting then { c with job := { c.job with promoStop := true } }
  else
    let c1 := c.withdraw .job Purpose.isFetch
    { c1 with job := { c1.job with
        nextBuffer := .empty
        activity := if c1.job.activity = .fetch then .none else c1.job.activity } }

/-- STOP in HALTED (R46, R180): the latch is cleared, a current ticket is ended FAULTED, and the engine
enters STOPPED at once when nothing is in flight. A further STOP has no effect. -/
def Chip.stopHalted (c : Chip) : Chip :=
  if c.engine.stopWaiting then c
  else
    let c1 := { c with
      engine := { c.engine with stopWaiting := true }
      protection := { c.protection with tripLatch := false }
      job := { c.job with promoStop := c.job.activity.promoting } }
    let c2 := c1.examineSupply.faultCurrent
    if c2.mayEnterStopped then c2.enterStopped else c2

/-- STOP where it is taken (R42, R177, R180); it abandons a dot test in progress (R173). -/
def Chip.stop (c : Chip) : Chip :=
  let c1 := c.abandonTest
  match c.engine.state with
  | .loading => (c1.withdraw .engine Purpose.isLoading).enterStopped
  | .running => ({ c1 with engine := { c1.engine with state := .stopping } }.stopSuccessor).stopByJobState
  | .halted => c1.stopHalted
  | _ => c1

/-! ## RESUME -/

/-- A trip condition stands (R167). -/
def Chip.tripStands (c : Chip) : Bool :=
  !c.scanner.headClosed.debounced ||
    (match c.protection.limits with
      | none => false
      | some l => decide (l.trip ≤ c.scanner.therm.toNat))

/-- RESUME is taken (R176). -/
def Chip.takesResume (c : Chip) : Bool :=
  decide (c.engine.state = .halted) && !c.engine.stopWaiting && !c.tripStands

/-- A Held Ticket write left failed is issued again (R23). -/
def Chip.againHeld (c : Chip) : Chip :=
  if c.job.heldWriteFailed then
    { c with job := { c.job with heldWriteFailed := false } }.hold c.job.held .heldWrite
  else c

/-- An end write-back left incomplete, failed or still in flight since the halt, is made again from its first
write (R36, R44, R45; log entry 15). -/
def Chip.againEnd (c : Chip) : Chip :=
  match c.job.ending with
  | none => c
  | some e =>
    if e.failed ∨ e.remake then
      let c1 := c.withdraw .job Purpose.isEnd
      { c1 with job := { c1.job with ending := some { e with failed := false, remake := false } } }.askEndWrites e
    else c

/-- A faulted ticket is reprinted or ended FAULTED (R45). -/
def Chip.dealFaulted (c : Chip) : Chip :=
  match c.job.current with
  | none => c
  | some t =>
    if c.job.faulted then
      if t.kind = .print ∧ t.reprintOnFault then
        let c1 := c.flush
        { c1 with job := { c1.job with jobState := .ready, faulted := false } }
      else c.faultCurrent
    else c

/-- A presentation that the halt stopped counts as finished (R45). -/
def Chip.finishPresenting (c : Chip) : Chip := if c.job.jobState = .present then c.presentationDone else c

/-- The copy in hand of a current PRINT ticket reaches composition start (R72). -/
def Chip.composeInHand (c : Chip) : Chip :=
  match c.job.current with
  | none => c
  | some t => if t.kind = .print then c.startComposition c.job.copyInHand else c

/-- RESUME where it is taken (R180, R45, R72). A chain walk in flight runs on, through LOADING too (the
model's choice, log entry 41), and a STOP that met a promotion still in flight acts on it yet (log entry 49). The
Fault Record writes in flight or waiting go on (R180), but a waiting one is discarded where RESUME enters LOADING
(R177, R179; the model's choice, log entry 58). -/
def Chip.resume (c : Chip) : Chip :=
  let c1 := { c with
    protection := { c.protection with tripLatch := false }
    engine := { c.engine with firstCause := none, further := 0 } }
  if c.engine.haltedFrom = some .loading then c1.releaseComposer.enterLoading
  else
    let c2 := ({ c1 with engine := { c1.engine with state := .running } }.releaseComposer).examineSupply
    (((c2.againHeld.againEnd).dealFaulted.finishPresenting).composeInHand).lookTrigger

/-! ## Cancelling -/

/-- A STOP taken in HALTED waits, so a cancel has no effect (R180). -/
def Chip.stopHolds (c : Chip) : Bool := decide (c.engine.state = .halted) && c.engine.stopWaiting

/-- CANCEL TICKET where it is taken (R39). -/
def Chip.cancelTicket (c : Chip) : Chip := if c.stopHolds then c else c.cancelCurrent

/-- CANCEL CHAIN empties the next-ticket buffer, or meets a promotion in flight, and withdraws a fetch or a
look in flight (R40, R25, R27). -/
def Chip.cancelSuccessors (c : Chip) : Chip :=
  if c.job.activity.promoting then { c with job := { c.job with promoCancel := true } }
  else
    let c1 := c.withdraw .job fun p => p.isFetch || p.isLook
    { c1 with job := { c1.job.dropLook with nextBuffer := .empty, activity := .none } }

/-- CANCEL CHAIN where it is taken (R40). -/
def Chip.cancelChain (c : Chip) : Chip :=
  if c.stopHolds then c
  else
    let c1 := c.cancelCurrent
    if c1.job.activity = .walk then c1
    else
      let c2 := c1.cancelSuccessors
      { c2 with job := { c2.job with walkWaiting := true } }.tryWalk

/-! ## The dot test command -/

/-- DOT TEST is taken (R176). -/
def Chip.takesDotTest (c : Chip) : Bool :=
  (decide (c.engine.state = .stopped) ||
    (decide (c.engine.state = .running) && decide (c.job.jobState = .dry ∨ c.job.jobState = .ready)
      && decide (c.motion.state = .still)))
  && !c.protection.test.isTesting

/-- DOT TEST where it is taken: the conditional settings load is made first (R170). One taken while the load of
an earlier one is in hand makes its own load, and the two start one test (log entry 17). -/
def Chip.dotTest (c : Chip) : Chip :=
  { c with protection := { c.protection with test := .starting } }.askGeneration .engine .dotTest

/-! ## Resets -/

/-- The first conversion of the idle rotation starts (R149, R151). -/
def Chip.startConverter (c : Chip) : Chip := { c with scanner := c.scanner.chooseNext c.now }

/-- The part after a reset that takes AREA and the enables as given, with the raw input levels that
stand. -/
def Chip.resetTo (area : Word) (enables : BitVec 7) (c : Chip) : Chip :=
  .resetWith area enables c.now c.motion.phase c.scanner.phaseFirst c.scanner.phaseSecond c.scanner.headClosed.raw
    c.scanner.taken.raw

/-- The soft reset takes effect (R181): AREA and the event enables are kept, and the converter leaves IDLE
at once. -/
def Chip.softReset (c : Chip) : Chip := (c.resetTo c.engine.area c.engine.enableBits).startConverter

end Sys2Proof.Machine
end

