-- ==== Sys2Proof/Machine/BurnEvents.lean ====
section
/-! DEFINITION. The Burn Controller's events (06_burn_control): taking a line, the end of its shift, the
phases and the end of a burn, and the grant of the head link. -/

namespace Sys2Proof.Machine

open Sys2Proof

/-- The conditions on which a line is taken (R108). -/
def Chip.mayTakeLine (c : Chip) : Bool :=
  decide (c.burn.register = none) && decide (c.burn.link = .held) && decide (c.composer.store ≠ [])

/-- The oldest line of the store enters the next-line register as SHIFTING, and a line held in WAIT_ROOM is
then appended (R108, R67). -/
def Chip.takeLine (c : Chip) : Chip :=
  match c.composer.store with
  | [] => c
  | r :: store =>
    let c1 := { c with
      burn := { c.burn with register := some (r, .shifting (c.now + Config.shiftTime)) }
      composer := { c.composer with store := store } }
    match c.composer.work with
    | .hold line => c1.appendLine line
    | _ => c1

/-- LINE_TAKE: the register is empty, the head link HELD, and the Line Store holds a line (R108). -/
def execLineTake (s : State) : Host.Outcome State Fault Refusal := s.event s.chip.mayTakeLine Chip.takeLine

/-- The shift in flight of record `r` has completed at `t` (R108). -/
def Chip.shiftDone (r : LineRecord) (t : Nat) (c : Chip) : Chip :=
  { c.advanceTo t with burn := { c.burn with register := some (r, .shifted) } }

/-- SHIFT_COMPLETE: the record in the register becomes SHIFTED (R108). -/
def execShiftComplete (s : State) : Host.Outcome State Fault Refusal :=
  match s.chip.burn.register with
  | some (r, .shifting t) => s.inside true (Chip.shiftDone r t)
  | _ => .next s

/-- The burn moves to the next phase that has a time (R118). -/
def BurnPlan.advance (plan : BurnPlan) : BurnPlan :=
  match plan.left with
  | [] => plan
  | p :: left => { plan with now := p, phaseEnd := plan.phaseEnd + p.time, left := left }

/-- BURN_PHASE_END: the phase being run expires and another follows it (R118). The expiry of the last one is
BURN_END. -/
def execBurnPhaseEnd (s : State) : Host.Outcome State Fault Refusal :=
  match s.chip.burn.plan with
  | none => .next s
  | some plan =>
    s.inside (decide (plan.left ≠ [])) fun c =>
      { c.advanceTo plan.phaseEnd with burn := { c.burn with plan := some plan.advance } }

/-- The moment the last phase of the last group of a plan ends (R118). -/
def BurnPlan.burnEnd (plan : BurnPlan) : Nat := plan.phaseEnd + (plan.left.map BurnPhase.time).sum

/-- BURN_END: the last phase of the last group ends (R120; log entry 11). -/
def execBurnEnd (s : State) : Host.Outcome State Fault Refusal :=
  match s.chip.burn.plan with
  | none => .next s
  | some plan => s.event true fun c => (c.advanceTo plan.burnEnd).endBurn

/-- The conditions of a grant of the head link (R125). -/
def BurnController.mayLend (b : BurnController) : Bool :=
  b.linkRequested && decide (b.link = .held) && decide (b.plan = none) && !b.isShifting

/-- The head link is lent (R125). -/
def BurnController.lend (b : BurnController) : BurnController :=
  { b.clearHistory with
    link := .lent
    linkRequested := false
    register := match b.register with
      | some (r, .shifted) => some (r, .unshifted)
      | x => x }

/-- HEAD_LINK_GRANT: a request for the head link is granted (R125). -/
def execHeadLinkGrant (s : State) : Host.Outcome State Fault Refusal :=
  s.inside s.chip.burn.mayLend fun c => { c with burn := c.burn.lend }

end Sys2Proof.Machine
end

