-- ==== Sys2Proof/Machine/HostCommands.lean ====
section
/-! DEFINITION. The host's writes to the register window: AREA, the eight commands, unknown values of
COMMAND, EVENTS, and the accesses that are ignored (R1, R16, R17, R176). -/

namespace Sys2Proof.Machine

open Sys2Proof

/-- AREA_WRITE: a write to AREA is taken in STOPPED and refused as AREA WRITE elsewhere (R1). -/
def execAreaWrite (value : Word) (s : State) : Host.Outcome State Fault Refusal :=
  if s.resetPin then .next s
  else if s.chip.engine.state = .stopped then
    .next { s with chip := { s.chip with engine := s.chip.engine.writeArea value } }
  else .next { s with chip := s.chip.refuse .areaWrite }

/-- START, taken in STOPPED: a dot test in progress is abandoned and the engine enters LOADING (R177,
R176). -/
def execStart (s : State) : Host.Outcome State Fault Refusal :=
  s.command (decide (s.chip.engine.state = .stopped)) .start fun c => c.abandonTest.enterLoading

/-- STOP, taken in LOADING, RUNNING and HALTED (R42, R177, R180, R176). -/
def execStop (s : State) : Host.Outcome State Fault Refusal :=
  s.command
    (decide (s.chip.engine.state = .loading ∨ s.chip.engine.state = .running ∨ s.chip.engine.state = .halted))
    .stop Chip.stop

/-- LOOK, taken in RUNNING and STOPPING: a look trigger (R24, R176). -/
def execLook (s : State) : Host.Outcome State Fault Refusal :=
  s.command (decide (s.chip.engine.state = .running ∨ s.chip.engine.state = .stopping)) .look Chip.lookTrigger

/-- RESUME, taken in HALTED when no trip condition stands and no STOP waits (R180, R176). -/
def execResume (s : State) : Host.Outcome State Fault Refusal := s.command s.chip.takesResume .resume Chip.resume

/-- CANCEL_TICKET, taken in RUNNING, STOPPING and HALTED (R39, R176). -/
def execCancelTicket (s : State) : Host.Outcome State Fault Refusal :=
  s.command
    (decide (s.chip.engine.state = .running ∨ s.chip.engine.state = .stopping ∨ s.chip.engine.state = .halted))
    .cancelTicket Chip.cancelTicket

/-- CANCEL_CHAIN, taken in RUNNING and HALTED (R40, R176). -/
def execCancelChain (s : State) : Host.Outcome State Fault Refusal :=
  s.command (decide (s.chip.engine.state = .running ∨ s.chip.engine.state = .halted)) .cancelChain Chip.cancelChain

/-- DOT_TEST, taken in STOPPED, and in RUNNING with job state DRY or READY and Motion STILL (R170, R176). -/
def execDotTest (s : State) : Host.Outcome State Fault Refusal :=
  s.command s.chip.takesDotTest .dotTest Chip.dotTest

/-- RESET, taken in every state: the soft reset, after the burst in flight, if any (R181, R18; log
entry 8). -/
def execReset (s : State) : Host.Outcome State Fault Refusal :=
  if s.resetPin then .next s
  else match s.chip.port.inFlight with
    | none => .next { s with chip := s.chip.softReset }
    | some _ => .next { s with resetWaiting := true }

/-- A 32-bit write to COMMAND, named by the whole value written (R16). -/
def State.commandWrite (value : Word) (s : State) : Host.Outcome State Fault Refusal :=
  match value.toNat with
  | 1 => execStart s
  | 2 => execStop s
  | 3 => execLook s
  | 4 => execResume s
  | 5 => execCancelTicket s
  | 6 => execCancelChain s
  | 7 => execDotTest s
  | 8 => execReset s
  | _ => if s.resetPin then .next s else .next { s with chip := s.chip.refuse .unknown }

/-- UNKNOWN_COMMAND: a value other than 1 to 8 is refused as UNKNOWN (R16). -/
def execUnknownCommand (value : Word) (s : State) : Host.Outcome State Fault Refusal := s.commandWrite value

/-- EVENTS_WRITE: the pending bits written as 1 are cleared and the enables take the value written (R17). -/
def execEventsWrite (value : Word) (s : State) : Host.Outcome State Fault Refusal :=
  if s.resetPin then .next s
  else .next { s with chip := { s.chip with engine := s.chip.engine.writeEvents value } }

/-- A write to the register window (R16; log entry 29). -/
def State.registerWrite (offset : BitVec 4) (width : Nat) (value : Word) (s : State) :
    Host.Outcome State Fault Refusal :=
  if width ≠ 32 then .next s
  else match offset.toNat with
    | 0 => execAreaWrite value s
    | 4 => s.commandWrite value
    | 12 => execEventsWrite value s
    | _ => .next s

/-- REGISTER_WRITE_IGNORED: a write of other than 32 bits, or to STATUS, changes nothing (R16). -/
def execRegisterWriteIgnored (offset : BitVec 4) (width : Nat) (value : Word) (s : State) :
    Host.Outcome State Fault Refusal := s.registerWrite offset width value

/-- PIN_RESET: the burst in flight ends at once, its bytes written in whole, in part or not at all (R18),
and every block takes its pin-reset values (R181). -/
def execPinReset (hostWrites : HostWrites) (s : State) : Host.Outcome State Fault Refusal :=
  let memory := Memory.hostWrite s.memory hostWrites
  let cut := match s.chip.port.inFlight with
    | none => (memory, s.freeDraws)
    | some b =>
      if b.write then (Memory.writeCut memory s.freeDraws 0 b.addr b.data, s.freeDraws + 1)
      else (memory, s.freeDraws)
  .next { s with
    chip := s.chip.resetTo 0 0
    memory := cut.1
    resetPin := true
    resetWaiting := false
    freeDraws := cut.2 }

/-- RESET_PIN_RELEASE: the debounced states and the encoder phases take the raw levels standing, and the
converter leaves IDLE for THERM (R181, R160, R158, R149). -/
def execResetPinRelease (s : State) : Host.Outcome State Fault Refusal :=
  if s.resetPin then .next { s with chip := (s.chip.resetTo 0 0).startConverter, resetPin := false } else .next s

end Sys2Proof.Machine
end

