-- ==== Sys2Proof/Machine/JobEvents.lean ====
section
/-! DEFINITION. The events that the Job Controller, the Composer and Engine Control meet by themselves: the
look timer, promotion, copy starts, the next line, and the entry to STOPPED. -/

namespace Sys2Proof.Machine

open Sys2Proof

/-- The look timer has expired at `t` (R24). -/
def Chip.lookTimerExpired (t : Nat) (c : Chip) : Chip :=
  { c.advanceTo t with job := { c.job with lookTimer := none } }.lookTrigger

/-- LOOK_TIMER_EXPIRY: the expiry of the look timer is a look trigger (R24). -/
def execLookTimerExpiry (s : State) : Host.Outcome State Fault Refusal :=
  match s.chip.job.lookTimer with
  | none => .next s
  | some t => s.event true (Chip.lookTimerExpired t)

/-- The next-ticket buffer is full. -/
def NextBuffer.isFull : NextBuffer → Bool
  | .full _ _ _ => true
  | _ => false

/-- The conditions of a promotion (R27). One whose buffer a failed write left full also waits for a chain walk in
flight to end (the model's choice, log entry 54). -/
def Chip.mayPromote (c : Chip) : Bool :=
  c.job.nextBuffer.isFull && decide (c.job.current = none) && decide (c.job.ending = none)
    && decide (c.engine.state = .running) && decide (c.job.activity = .none)

/-- A promotion first re-reads the ticket's State (R27). -/
def Chip.promote (c : Chip) : Chip :=
  { c.leavePromotion with job := { c.leavePromotion.job with activity := .promotion .reread } }.ask .job
    (readAccess .promotionState (.at (c.job.nextBuffer.addr.toNat + 4)) 1)

/-- PROMOTION: the ticket in the full next-ticket buffer is to be brought into play (R27). -/
def execPromotion (s : State) : Host.Outcome State Fault Refusal := s.event s.chip.mayPromote Chip.promote

/-- A copy, FEED or CALIBRATE start begins with its conditional settings load (R31 step 1). -/
def Chip.copyStart (c : Chip) : Chip :=
  { c with job := { c.job with starting := true } }.askGeneration .job .copyStart

/-- COPY_START: every start condition holds in READY (R31). -/
def execCopyStart (s : State) : Host.Outcome State Fault Refusal :=
  s.event (s.chip.startConditions && !s.chip.job.starting) Chip.copyStart

/-- The Composer has a line to compose (R55). -/
def Composer.hasNext (k : Composer) : Bool := k.copy.isSome && decide (k.work = .ready)

/-- COMPOSE_LINE: the Composer composes the next line of its copy (R55). -/
def execComposeLine (s : State) : Host.Outcome State Fault Refusal :=
  s.event s.chip.composer.hasNext Chip.composeLine

/-- ENTER_STOPPED: the conditions of R43, or those of R180 after a STOP in HALTED, hold. -/
def execEnterStopped (s : State) : Host.Outcome State Fault Refusal :=
  s.event s.chip.mayEnterStopped Chip.enterStopped

end Sys2Proof.Machine
end

