-- ==== Sys2Proof/Machine/MemoryEvents.lean ====
section
/-! DEFINITION. The end of the burst in flight: its completion (R18) and a bus error on it (R20). -/

namespace Sys2Proof.Machine

open Sys2Proof

/-- The part after the burst in flight has ended: a soft reset that waited for it takes effect (R18), or the
requester goes on. -/
def State.afterBurst (memory : List Host.Cell) (draws : Nat) (f : Chip → Chip) (s : State) : State :=
  { s with
    memory := memory
    freeDraws := draws
    resetWaiting := false
    chip := if s.resetWaiting then s.chip.softReset else (f s.chip).settlePort }

/-- BURST_COMPLETE: the burst in flight completes on what job memory then holds (R18, R19). -/
def execBurstComplete (hostWrites : HostWrites) (s : State) : Host.Outcome State Fault Refusal :=
  if s.resetPin then .next s
  else match s.chip.port.inFlight with
    | none => .next s
    | some b =>
      let memory := Memory.hostWrite s.memory hostWrites
      if b.write then
        .next (s.afterBurst (Memory.writeRun memory b.addr b.data) s.freeDraws (Chip.burstDone b []))
      else .next (s.afterBurst memory s.freeDraws (Chip.burstDone b (Memory.readRun memory b.addr b.length)))

/-- BUS_ERROR: job memory reports an error on the burst in flight (R20). Which bytes of a write burst were
written is open (log entry 10). -/
def execBusError (hostWrites : HostWrites) (s : State) : Host.Outcome State Fault Refusal :=
  if s.resetPin then .next s
  else match s.chip.port.inFlight with
    | none => .next s
    | some b =>
      let memory := Memory.hostWrite s.memory hostWrites
      if b.write then
        .next (s.afterBurst (Memory.writeCut memory s.freeDraws 0 b.addr b.data) (s.freeDraws + 1)
          (Chip.burstFailed b))
      else .next (s.afterBurst memory s.freeDraws (Chip.burstFailed b))

end Sys2Proof.Machine
end

