-- ==== Sys2Proof/Machine/MotionEvents.lean ====
section
/-! DEFINITION. The Motion Controller's events (07_media_motion): the expiry of the period timer, forward
steps and reverse steps. -/

namespace Sys2Proof.Machine

open Sys2Proof

/-- Report a burn stretch. -/
def RunningResult.addStretch (r : RunningResult) : RunningResult :=
  { r with burnStretches := saturate8 (r.burnStretches + 1) }

/-- The period timer has expired (R130, R132, R133). -/
def Chip.periodExpired (c : Chip) : Chip :=
  let c1 := { c with motion := { c.motion with timer := .expired } }
  let c2 :=
    if c.burn.plan.isSome ∧ c.motion.operation.wantsForward then
      { c1 with motion := { c1.motion with stretchMark := true } }.report RunningResult.addStretch
    else c1
  c2.settleMotion

/-- PERIOD_TIMER_EXPIRY: a due step is allowed, a burn stretch counted, or Motion brought to STILL (R130). -/
def execPeriodTimerExpiry (s : State) : Host.Outcome State Fault Refusal :=
  match s.chip.motion.timer with
  | .running _ t => s.inside true fun c => (c.advanceTo t).periodExpired
  | _ => .next s

/-! ## Forward steps -/

/-- The period timer allows a forward step: it has expired, or the step is the first from STILL or the
restart from DWELL (R131). -/
def MotionController.timerAllows (m : MotionController) : Bool :=
  match m.state with
  | .still => true
  | .dwell => true
  | .forward => decide (m.timer = .expired)
  | .reverse => false

/-- The conditions of a forward step (R131). -/
def Chip.mayStep (c : Chip) : Bool :=
  c.motion.operation.wantsForward && c.motion.timerAllows && decide (c.burn.plan = none)
    && decide (c.protection.gate = .opened)
    && (!c.motion.nextIsLine || decide (c.burn.state = .loaded))

/-- The target entry leaves the Edge Queue when the step that reaches it is issued; CONTINUOUS media have
no entry (R137, R138). -/
def MotionController.dropTarget (m : MotionController) : MotionController :=
  if m.values.mediaKind = .continuous then m else { m with edgeQueue := m.edgeQueue.drop 1 }

/-- A forward step without a target: the search count rises, the queue is tested again, and GAP_MISSING is
due when the count reaches Max Search (R137, R139). -/
def MotionController.searchOn (m : MotionController) : MotionController × Option Position × Bool :=
  let (m1, target) := { m with searchCount := m.searchCount + 1 }.seek
  match target with
  | some t => ({ m1 with searchCount := 0 }, some t, false)
  | none => (m1, none, decide (m1.searchCount = m1.values.maxSearch))

/-- GAP_MISSING is reported when it is due (R139). -/
def Chip.gapMissingIf (due : Bool) (c : Chip) : Chip := if due then c.fault .gapMissing else c

/-- The last line of a copy of the current ticket. -/
def JobController.lastLine (j : JobController) : Nat :=
  match j.current with
  | none => 0
  | some t => t.labelLength - 1

/-- The progress of an alignment at a step (R138, R139). -/
def Chip.alignStep (target : Option Position) (serving : Bool) (c : Chip) : Chip :=
  match target with
  | some t =>
    if c.motion.position = t then
      if serving then
        { c with
          motion := { c.motion.dropTarget with operation := .print 1 c.job.lastLine }
          job := { c.job with jobState := .print } }
      else { c with motion := { c.motion.dropTarget with operation := .none } }
    else c
  | none =>
    let (m, found, due) := c.motion.searchOn
    { c with motion := { m with operation := .align found serving } }.gapMissingIf due

/-- The progress of a label feed at a step (R143, R137, R139). -/
def Chip.labelStep (left : Nat) (target : Option Position) (c : Chip) : Chip :=
  match target with
  | some t =>
    if c.motion.position = t then
      if left ≤ 1 then
        { c with motion := { c.motion.dropTarget with operation := .none } }.feedComplete .ok
      else { c with motion := c.motion.dropTarget.beginLabels (left - 1) }
    else c
  | none =>
    let (m, found, due) := c.motion.searchOn
    { c with motion := { m with operation := .labelFeed left found } }.gapMissingIf due

/-- The entries of the Edge Queue after the one whose print start is `t` (R144). -/
def MotionController.dropThrough (t : Position) (m : MotionController) : MotionController :=
  { m with edgeQueue := (m.edgeQueue.dropWhile fun e => decide (m.printStart e ≠ t)).drop 1 }

/-- The progress of a calibration's edge search at a step (R144, R38). -/
def Chip.searchStep (target : Option Position) (pitch : Nat) (c : Chip) : Chip :=
  let m := { c.motion with searchCount := c.motion.searchCount + 1 }
  match target with
  | some t =>
    if m.position = t then { c with motion := m.dropThrough t }.endCalibration .ok pitch
    else { c with motion := m }
  | none =>
    if m.searchCount = m.values.maxSearch then { c with motion := m }.endCalibration .noEdge 0
    else { c with motion := m }

/-- The progress of a presentation at a step (R140). -/
def Chip.presentStep (left : Nat) (c : Chip) : Chip :=
  let m := { c.motion with presentedLines := c.motion.presentedLines + 1 }
  if left ≤ 1 then
    let c1 := { c with motion := { m with operation := .none } }
    if c.job.jobState = .present then c1.presentationDone else c1
  else { c with motion := { m with operation := .presentation (left - 1) } }

/-- The operation's progress at a forward step, and its end (R131 step 6). -/
def Chip.progress (c : Chip) : Chip :=
  match c.motion.operation with
  | .align target serving => c.alignStep target serving
  | .print next last =>
    { c with motion := { c.motion with operation := if last ≤ next then .none else .print (next + 1) last } }
  | .presentation left => c.presentStep left
  | .lineFeed left =>
    if left ≤ 1 then { c with motion := { c.motion with operation := .none } }.feedComplete .ok
    else { c with motion := { c.motion with operation := .lineFeed (left - 1) } }
  | .labelFeed left target => c.labelStep left target
  | .sampling left =>
    if left ≤ 1 then
      { c with
        motion := { c.motion with operation := .sampled }
        job := { c.job with samplingReported := true } }
    else { c with motion := { c.motion with operation := .sampling (left - 1) } }
  | .edgeSearch target pitch => c.searchStep target pitch
  | _ => c

/-- Whether a step's MEDIA request is marked for sampling (R144). -/
def Operation.marks : Operation → Bool
  | .sampling _ => true
  | _ => false

/-- Whether a line step brings line 0 to the heater line (R131). -/
def Operation.isAlign : Operation → Bool
  | .align _ _ => true
  | _ => false

/-- A forward step is issued (R131): the step and its pace, the MEDIA request, the operation's progress,
and for a line step the line start and the ribbon window's count (R109, R159; log entry 26). -/
def Chip.forwardStep (c : Chip) : Chip :=
  let line := c.motion.nextIsLine
  let first := c.motion.operation.isAlign
  let m := c.motion.stepForward c.now c.composer.store.length
  let s := c.scanner.request c.now (.media m.position c.motion.operation.marks)
  let c1 := { c with motion := m, scanner := s }.progress
  if line then (c1.lineStart (m.periodOf m.speedStep)).ribbonLine first else c1

/-- FORWARD_STEP: every condition of a forward step holds (R131). -/
def execForwardStep (s : State) : Host.Outcome State Fault Refusal := s.event s.chip.mayStep Chip.forwardStep

/-! ## Reverse steps -/

/-- The conditions of a reverse step (R141). -/
def Chip.mayStepBack (c : Chip) : Bool :=
  c.motion.wantsReverse && decide (c.protection.gate = .opened)
    && (match c.motion.state with
      | .still => true
      | .reverse => decide (c.motion.timer = .expired)
      | _ => false)

/-- A reverse step (R141, R135). -/
def MotionController.stepBack (now : Nat) (m : MotionController) : MotionController :=
  { m with
    state := .reverse
    phase := m.phase - 1
    position := m.position - 1
    presentedLines := m.presentedLines - 1
    gapRun := if m.state = .still then 0 else m.gapRun
    speedStep := 0
    timer := .running (m.periodOf 0) (now + m.periodOf 0) }

/-- REVERSE_STEP: a backfeed's reverse step is issued (R141). -/
def execReverseStep (s : State) : Host.Outcome State Fault Refusal :=
  s.inside s.chip.mayStepBack fun c => { c with motion := c.motion.stepBack c.now }

end Sys2Proof.Machine
end

