-- ==== Sys2Proof/Machine/ProtectionEvents.lean ====
section
/-! DEFINITION. The Protection Unit's events (09_head_supply_protection_and_dot_test): the end of the settle,
and the steps of the measurement of a dot. -/

namespace Sys2Proof.Machine

open Sys2Proof

/-- The settle has run: the supply is ON and the gate opens (R162, R163). -/
def Chip.supplyOn (t : Nat) (c : Chip) : Chip :=
  { c.advanceTo t with protection := { c.protection with supply := .on, gate := .opened } }

/-- SUPPLY_SETTLED: the 5 ms settle completes (R162, R163). -/
def execSupplySettled (s : State) : Host.Outcome State Fault Refusal :=
  match s.chip.protection.supply with
  | .settling t => s.inside true (Chip.supplyOn t)
  | _ => .next s

/-- Set the step of a dot test in hand. -/
def Chip.testStep (p : TestProgress) (step : TestStep) (c : Chip) : Chip :=
  { c with protection := { c.protection with test := .testing { p with step := step } } }

/-- TEST_DOT_START: the gate is OPEN and the head link LENT, and the first dot's line is shifted (R170,
R171). -/
def execTestDotStart (s : State) : Host.Outcome State Fault Refusal :=
  match s.chip.protection.test with
  | .testing p =>
    s.inside (decide (p.step = .waiting) && decide (s.chip.protection.gate = .opened)
        && decide (s.chip.burn.link = .lent))
      fun c => c.testStep p (.shifting (c.now + Config.shiftTime))
  | _ => .next s

/-- The head latch takes the single-dot line and a CURRENT request is sent (R171 steps 1 and 2). -/
def Chip.dotShifted (p : TestProgress) (t : Nat) (c : Chip) : Chip :=
  let c1 := (c.advanceTo t).testStep p (.measuring .waiting none)
  { c1 with scanner := c1.scanner.request c1.now .current }.startPulse

/-- DOT_SHIFT_COMPLETE: the shift of the single-dot line completes (R171). -/
def execDotShiftComplete (s : State) : Host.Outcome State Fault Refusal :=
  match s.chip.protection.test with
  | .testing p =>
    match p.step with
    | .shifting t => s.inside true (Chip.dotShifted p t)
    | _ => .next s
  | _ => .next s

/-- The pulse of the dot under test has ended; the dot is judged when its code is there (R171 step 3). -/
def Chip.pulseEnded (p : TestProgress) (t : Nat) (code : Option Code) (c : Chip) : Chip :=
  let c1 := c.advanceTo t
  match code with
  | none => c1.testStep p (.measuring .ended none)
  | some k => c1.judgeDot p k

/-- TEST_PULSE_END: the Test Pulse of the dot under test ends (R171). -/
def execTestPulseEnd (s : State) : Host.Outcome State Fault Refusal :=
  match s.chip.protection.test with
  | .testing p =>
    match p.step with
    | .measuring (.on t) code => s.event true (Chip.pulseEnded p t code)
    | _ => .next s
  | _ => .next s

end Sys2Proof.Machine
end

