-- ==== Sys2Proof/Machine/ScannerEvents.lean ====
section
/-! DEFINITION. The Sensor Scanner's events (08_sensor_scanner): the end of a conversion, a change of the
encoder phases, raw changes of the switch inputs and their debounced changes. -/

namespace Sys2Proof.Machine

open Sys2Proof

/-- The moment the conversion in flight completes; an IDLE converter leaves IDLE at once (R149). -/
def SensorScanner.doneAt (now : Nat) (s : SensorScanner) : Nat :=
  match s.converter with
  | .idle => now + Config.conversionTime
  | .converting _ t => t

/-- The completed code becomes its channel's latest code, and the rotation moves on (R150, R151). -/
def SensorScanner.takeCode (what : Conversion) (code : Code) (s : SensorScanner) : SensorScanner :=
  match what with
  | .therm => { s with therm := code, rotation := .supply }
  | .supply => { s with supply := code, rotation := .therm }
  | .media _ _ => { s with media := code }
  | .current => { s with current := code }

/-- The completed code is handed on (R150). -/
def Chip.handOn (what : Conversion) (code : Code) (c : Chip) : Chip :=
  match what with
  | .therm => c.judgeTherm code
  | .supply => c.judgeSupply code
  | .media position marked => c.mediaSample code position marked
  | .current => c.takeCurrent code

/-- The conversion in flight completes, and the next conversion starts (R149 to R151; log entry 23). -/
def Chip.conversionDone (code : Code) (c : Chip) : Chip :=
  let what := c.scanner.inFlight
  let c1 := c.advanceTo (c.scanner.doneAt c.now)
  let c2 := { c1 with scanner := c1.scanner.takeCode what code }.handOn what code
  { c2 with scanner := c2.scanner.chooseNext c2.now }.startPulse

/-- CONVERSION_COMPLETE: the conversion in flight yields its code (R149, R150). -/
def execConversionComplete (code : Code) (s : State) : Host.Outcome State Fault Refusal :=
  s.event true (Chip.conversionDone code)

/-- The place of a pair of phase levels in the forward cycle (R158). -/
def phaseIndex : Bool → Bool → Nat
  | false, false => 0
  | false, true => 1
  | true, true => 2
  | true, false => 3

/-- The ribbon count after a legal transition, saturating (R158). -/
def addRibbon (step : Int) (count : Int) : Int := clampInt (-32768) 32767 (count + step)

/-- Report a ribbon glitch. -/
def RunningResult.addGlitch (r : RunningResult) : RunningResult :=
  { r with ribbonGlitches := saturate8 (r.ribbonGlitches + 1) }

/-- The encoder phases now stand at these levels (R158). -/
def Chip.encoderMoved (first second : Bool) (c : Chip) : Chip :=
  let s := { c.scanner with phaseFirst := first, phaseSecond := second }
  if c.scanner.phaseFirst = first ∧ c.scanner.phaseSecond = second then c
  else if c.scanner.phaseFirst ≠ first ∧ c.scanner.phaseSecond ≠ second then
    { c with scanner := s }.report RunningResult.addGlitch
  else
    let forward := decide (phaseIndex first second
      = (phaseIndex c.scanner.phaseFirst c.scanner.phaseSecond + 1) % 4)
    { c with scanner := { s with ribbonCount := addRibbon (if forward then 1 else -1) s.ribbonCount } }

/-- ENCODER_TRANSITION: a change of the encoder phases is counted, or reported as a glitch (R158). While the
reset pin is asserted the levels are only followed. -/
def execEncoderTransition (first second : Bool) (s : State) : Host.Outcome State Fault Refusal :=
  if s.resetPin then
    .next { s with chip := { s.chip with
      scanner := { s.chip.scanner with phaseFirst := first, phaseSecond := second } } }
  else .next { s with chip := s.chip.encoderMoved first second }

/-- A raw level at a switch input; a change starts its debounce time again (R160). -/
def SwitchInput.follow (now : Nat) (level : Bool) (i : SwitchInput) : SwitchInput :=
  if i.raw = level then i else { i with raw := level, since := now }

/-- The raw level of a switch input changes (R160). -/
def SensorScanner.follow (now : Nat) (input : Switch) (level : Bool) (s : SensorScanner) : SensorScanner :=
  match input with
  | .headClosed => { s with headClosed := s.headClosed.follow now level }
  | .taken => { s with taken := s.taken.follow now level }

/-- SWITCH_INPUT_CHANGE: a raw change of HEAD_CLOSED or TAKEN (R160). -/
def execSwitchInputChange (input : Switch) (level : Bool) (s : State) : Host.Outcome State Fault Refusal :=
  .next { s with chip := { s.chip with scanner := s.chip.scanner.follow s.chip.now input level } }

/-- A debounced state is due to change: the raw input holds the other level (R160). -/
def SwitchInput.due (i : SwitchInput) : Bool := decide (i.raw ≠ i.debounced)

/-- The debounced HEAD_CLOSED state changes: the Protection Unit acts on it (R160, R162, R165). -/
def Chip.headChanged (c : Chip) : Chip :=
  let level := c.scanner.headClosed.raw
  let c0 := c.advanceTo (c.scanner.headClosed.since + Config.headDebounce)
  let c1 := { c0 with scanner := { c0.scanner with headClosed := { c0.scanner.headClosed with debounced := level } } }
  if level = false ∧ c1.watches then c1.trip .headOpen else c1.examineSupply

/-- HEAD_CLOSED_DEBOUNCED: the raw level has held for 5 ms (R160). -/
def execHeadClosedDebounced (s : State) : Host.Outcome State Fault Refusal :=
  s.event s.chip.scanner.headClosed.due Chip.headChanged

/-- The debounced TAKEN state changes; NO LABEL ends an AWAIT_TAKE (R160, R142). -/
def Chip.takenChanged (c : Chip) : Chip :=
  let level := c.scanner.taken.raw
  let c0 := c.advanceTo (c.scanner.taken.since + Config.takenDebounce)
  let c1 := { c0 with scanner := { c0.scanner with taken := { c0.scanner.taken with debounced := level } } }
  if level = false ∧ c1.job.jobState = .awaitTake then c1.settleJobState else c1

/-- TAKEN_DEBOUNCED: the raw level has held for 20 ms (R160). -/
def execTakenDebounced (s : State) : Host.Outcome State Fault Refusal :=
  s.inside s.chip.scanner.taken.due Chip.takenChanged

end Sys2Proof.Machine
end

