-- ==== Sys2Proof/Machine/Dispatch.lean ====
section
/-! DEFINITION. The meaning of each command: one arm for each row of spec/opcode_table.json. -/

namespace Sys2Proof.Machine

open Sys2Proof

def exec (i : Instr) (s : State) : Host.Outcome State Fault Refusal :=
  match i with
  | .areaWrite value => Sys2Proof.Machine.execAreaWrite value s
  | .start => Sys2Proof.Machine.execStart s
  | .stop => Sys2Proof.Machine.execStop s
  | .look => Sys2Proof.Machine.execLook s
  | .resume => Sys2Proof.Machine.execResume s
  | .cancelTicket => Sys2Proof.Machine.execCancelTicket s
  | .cancelChain => Sys2Proof.Machine.execCancelChain s
  | .dotTest => Sys2Proof.Machine.execDotTest s
  | .reset => Sys2Proof.Machine.execReset s
  | .unknownCommand value => Sys2Proof.Machine.execUnknownCommand value s
  | .eventsWrite value => Sys2Proof.Machine.execEventsWrite value s
  | .registerWriteIgnored offset width value => Sys2Proof.Machine.execRegisterWriteIgnored offset width value s
  | .pinReset hostWrites => Sys2Proof.Machine.execPinReset hostWrites s
  | .burstComplete hostWrites => Sys2Proof.Machine.execBurstComplete hostWrites s
  | .busError hostWrites => Sys2Proof.Machine.execBusError hostWrites s
  | .lookTimerExpiry => Sys2Proof.Machine.execLookTimerExpiry s
  | .promotion => Sys2Proof.Machine.execPromotion s
  | .copyStart => Sys2Proof.Machine.execCopyStart s
  | .composeLine => Sys2Proof.Machine.execComposeLine s
  | .lineTake => Sys2Proof.Machine.execLineTake s
  | .shiftComplete => Sys2Proof.Machine.execShiftComplete s
  | .burnPhaseEnd => Sys2Proof.Machine.execBurnPhaseEnd s
  | .burnEnd => Sys2Proof.Machine.execBurnEnd s
  | .headLinkGrant => Sys2Proof.Machine.execHeadLinkGrant s
  | .periodTimerExpiry => Sys2Proof.Machine.execPeriodTimerExpiry s
  | .forwardStep => Sys2Proof.Machine.execForwardStep s
  | .reverseStep => Sys2Proof.Machine.execReverseStep s
  | .conversionComplete code => Sys2Proof.Machine.execConversionComplete code s
  | .encoderTransition first second => Sys2Proof.Machine.execEncoderTransition first second s
  | .switchInputChange input level => Sys2Proof.Machine.execSwitchInputChange input level s
  | .headClosedDebounced => Sys2Proof.Machine.execHeadClosedDebounced s
  | .takenDebounced => Sys2Proof.Machine.execTakenDebounced s
  | .supplySettled => Sys2Proof.Machine.execSupplySettled s
  | .testDotStart => Sys2Proof.Machine.execTestDotStart s
  | .dotShiftComplete => Sys2Proof.Machine.execDotShiftComplete s
  | .testPulseEnd => Sys2Proof.Machine.execTestPulseEnd s
  | .enterStopped => Sys2Proof.Machine.execEnterStopped s
  | .resetPinRelease => Sys2Proof.Machine.execResetPinRelease s

end Sys2Proof.Machine
end

