-- ==== Sys2Proof/Machine/Step.lean ====
section
/-! DEFINITION. One step of the machine: the command at the front of the queue is run on the machine with
the rest of the queue; on an empty queue the block idles and a microsecond passes (log entry 4). -/

namespace Sys2Proof.Machine

open Sys2Proof

/-- A microsecond passes. -/
def State.idle (s : State) : State := { s with chip := { s.chip with now := s.chip.now + 1 } }

/-- One step. -/
def step (s : State) : Host.Outcome State Fault Refusal :=
  match s.pending with
  | [] => .next s.idle
  | c :: rest => exec c { s with pending := rest }

/-- The machine with the command that a word spells put at the front of its queue; no word spells one
(log entry 3). -/
def State.withFetchWord (s : State) (nbits w : Nat) : State :=
  match decodeTableWord nbits w with
  | none => s
  | some c => { s with pending := c :: s.pending }

end Sys2Proof.Machine
end

