-- ==== Sys2Proof/Safety.lean ====
section
/-! DEFINITION. What the model's claims call sound: the canonical form of job memory, the legal values of
AREA, and the shape of the Memory Port's accesses. -/

namespace Sys2Proof.Machine

open Sys2Proof

/-- A value AREA can hold: bits 1:0 and 31:24 are zero (R1). -/
def areaLegal (w : Word) : Bool := decide (w &&& ~~~areaMask = 0)

/-- Job memory stands in its canonical form. -/
def State.memoryWf (s : State) : Bool := Memory.wf s.memory

/-- Every dot energized lies behind an OPEN gate (R117). -/
def Chip.gateGuards (c : Chip) : Bool := decide (c.protection.gate = .opened) || decide (c.energized = 0)

/-- An access that has been issued, or that would lie within the reach of job memory if it were (R18). -/
def EngineControl.reaches (e : EngineControl) (a : Access) : Bool :=
  a.issued || decide (e.locate a.location + a.length ≤ Config.memoryReach)

/-- Every access asked for lies within the reach of job memory (R18). -/
def Chip.portInReach (c : Chip) : Bool :=
  [Requester.job, .composer, .engine].all fun q => (c.port.queue q).all c.engine.reaches

/-- The control area lies within the reach of job memory (R1, R18). -/
def EngineControl.areaInReach (e : EngineControl) : Bool := decide (e.areaBase + 0x250 ≤ Config.memoryReach)

/-- An access as it was asked for: its purpose, its location, its direction, its length and the bytes it writes.
What the Memory Port adds as it carries the access out is left out: that it is issued and its address, the
bytes carried and the bytes read, and the bytes of a Fault Record write, which are settled at its issue
(R18, R179). -/
def Access.request (a : Access) : Access :=
  { a with
    issued := false, addr := 0, carried := 0
    data := if a.write && !a.purpose.isRecord then a.data else [] }

/-- What a requester has asked a port for and not yet been given, oldest first. -/
def MemoryPort.asked (q : Requester) (p : MemoryPort) : List Access := (p.queue q).map Access.request

/-- What a requester has asked for, oldest first. -/
def Chip.asked (q : Requester) (c : Chip) : List Access := c.port.asked q

/-- What Engine Control has asked for once a first cause has halted the engine: the accesses of LOADING are
withdrawn (R177), a dot test in hand is abandoned, its settings load withdrawn and its outcome to be written as
ABANDONED (R173; for a test whose start is in hand log entries 17 and 47), and the Fault Record is to be written: the write that waits, if one does, becomes that of the new
first cause, and else one of its own is asked for (R178; log entries 14 and 31). -/
def Chip.engineAskedAtHalt (c : Chip) : List Access :=
  let test := decide (c.protection.test ≠ .idle)
  (((c.port.queue .engine).map fun a => if a.recordWaits then recordAccess .faultRecord else a.request).filter
      fun a => !(a.purpose.isLoading || (test && a.purpose.isLoadFor .dotTest)))
    ++ (if test then [writeAccess .publishAbandoned (.area 0x00A) [2]] else [])
    ++ if (c.port.queue .engine).any Access.recordWaits then [] else [recordAccess .faultRecord]

/-- Whether the supply state is ON. -/
def SupplyState.isOn : SupplyState → Bool
  | .off => false
  | .settling _ => false
  | .on => true

/-- The head supply switch stands as its three conditions ask, and the gate is OPEN exactly while the supply
is ON (R162, R163). -/
def Chip.supplySound (c : Chip) : Bool :=
  (decide (c.protection.supply ≠ .off) == c.supplyWanted)
    && (decide (c.protection.gate = .opened) == c.protection.supply.isOn)

/-- The counts of a running result that saturate at 255 stand at 255 or below (R35). -/
def RunningResult.saturated (r : RunningResult) : Bool :=
  decide (r.omittedObjects ≤ 255) && decide (r.missingGlyphs ≤ 255) && decide (r.dwellStops ≤ 255)
    && decide (r.burnStretches ≤ 255) && decide (r.badDotsUnderBars ≤ 255) && decide (r.splitLines ≤ 255)
    && decide (r.ribbonGlitches ≤ 255)

/-- The Line Store holds at most 32 lines (R66). -/
def Chip.storeInRoom (c : Chip) : Bool := decide (c.composer.store.length ≤ 32)

/-- The Edge Queue holds at most 8 edges (R136). -/
def Chip.edgesInRoom (c : Chip) : Bool := decide (c.motion.edgeQueue.length ≤ 8)

/-- AREA, and the control area address in use, are addresses that AREA can hold (R1). -/
def EngineControl.areasLegal (e : EngineControl) : Bool := areaLegal e.area && areaLegal e.areaInUse

/-- An outcome that goes on: the machine never stops (there is no fault and no refusal among its
meanings). -/
def goesOn (o : Host.Outcome State Fault Refusal) : Bool :=
  match o with
  | .next _ => true
  | .fault _ => false
  | .refused _ => false

end Sys2Proof.Machine
end

