-- ==== Sys2Proof/WellFormed.lean ====
section
/-! DEFINITION. Which commands are well formed: the operands a row of the table admits. -/

namespace Sys2Proof

/-- A value of COMMAND that names a command (R16). -/
def commandValueNamed (value : Word) : Bool := decide (1 ≤ value.toNat) && decide (value.toNat ≤ 8)

/-- A window access that changes nothing and is not refused: any width but 32 bits, or STATUS (R16). -/
def ignoredAccess (offset : BitVec 4) (width : Nat) : Bool := decide (width ≠ 32) || decide (offset = 8)

/-- Every byte the host writes has a 24-bit address (00_scope, Addresses). -/
def hostWritesInReach (ws : HostWrites) : Bool := ws.all fun w => decide (w.1 < Config.memoryReach)

/-- The well-formed commands. -/
def WellFormed : Instr → Bool
  | .unknownCommand value => !commandValueNamed value
  | .registerWriteIgnored offset width _ => ignoredAccess offset width
  | .pinReset ws => hostWritesInReach ws
  | .burstComplete ws => hostWritesInReach ws
  | .busError ws => hostWritesInReach ws
  | .areaWrite _ => true
  | .start => true
  | .stop => true
  | .look => true
  | .resume => true
  | .cancelTicket => true
  | .cancelChain => true
  | .dotTest => true
  | .reset => true
  | .eventsWrite _ => true
  | .lookTimerExpiry => true
  | .promotion => true
  | .copyStart => true
  | .composeLine => true
  | .lineTake => true
  | .shiftComplete => true
  | .burnPhaseEnd => true
  | .burnEnd => true
  | .headLinkGrant => true
  | .periodTimerExpiry => true
  | .forwardStep => true
  | .reverseStep => true
  | .conversionComplete _ => true
  | .encoderTransition _ _ => true
  | .switchInputChange _ _ => true
  | .headClosedDebounced => true
  | .takenDebounced => true
  | .supplySettled => true
  | .testDotStart => true
  | .dotShiftComplete => true
  | .testPulseEnd => true
  | .enterStopped => true
  | .resetPinRelease => true

end Sys2Proof
end

