-- ==== Sys2Proof/Certificates/Slice0/Obligations.lean ====
section
/-! DEFINITION. The statements for the provers. Where a command leads to accesses of job memory, the state
it answers is given whole but for the Memory Port, of which the statement says what each requester then has
asked for: of every access its purpose, its location, its direction, its length and the bytes it writes
(`Access.request`). The premise `portInReach` says that no access asked for lies beyond the 24-bit reach (one
that does is ended at once as a bus error, R18). -/

open Sys2Proof
open Sys2Proof.Machine

/-! ## The whole machine -/

/-- A step runs the command at the front of the queue on the machine with the rest of the queue. On an empty
queue a microsecond of the model's clock passes and nothing else changes (the model's choice, log entry 4). -/
def Obligations.StepRunsFrontCommand : Prop :=
  (∀ (c : Instr) (rest : List Instr) (s : State),
    step { s with pending := c :: rest } = exec c { s with pending := rest })
  ∧ ∀ s : State, step { s with pending := [] }
      = .next { s with pending := [], chip := { s.chip with now := s.chip.now + 1 } }

/-- Every command, in every state, answers a next state and leaves the queue of waiting commands alone; and
only the end of a burst and a pin reset touch job memory: whatever any other command does, every byte of job
memory stays (R18: only bursts carry bytes), and no free value is drawn. -/
def Obligations.EveryCommandGoesOn : Prop :=
  ∀ (i : Instr) (s : State), ∃ t, exec i s = .next t ∧ t.pending = s.pending
    ∧ ((∀ ws, i ≠ .burstComplete ws ∧ i ≠ .busError ws ∧ i ≠ .pinReset ws) →
        t.memory = s.memory ∧ t.freeDraws = s.freeDraws)

/-- Every step keeps job memory in its canonical form (the model's form of memory, log entry 5). -/
def Obligations.StepKeepsMemoryForm : Prop :=
  ∀ s t : State, s.memoryWf = true → step s = .next t → t.memoryWf = true

/-- Every step keeps AREA, and the control area address in use, at addresses AREA can hold: bits 1:0 and
31:24 are zero (R1). -/
def Obligations.StepKeepsAreaLegal : Prop :=
  ∀ s t : State, s.chip.engine.areasLegal = true → step s = .next t → t.chip.engine.areasLegal = true

/-- Every step keeps the Line Store at 32 lines or fewer, the Edge Queue at 8 edges or fewer, and the seven
saturating counts of the running result at 255 or below (R66, R136, R35). -/
def Obligations.StepKeepsRoom : Prop :=
  ∀ s t : State, step s = .next t →
    (s.chip.storeInRoom = true → t.chip.storeInRoom = true)
    ∧ (s.chip.edgesInRoom = true → t.chip.edgesInRoom = true)
    ∧ (s.chip.job.result.saturated = true → t.chip.job.result.saturated = true)

/-- Every step keeps the head supply as its three conditions ask (it is OFF exactly while one of them fails),
and the gate OPEN exactly while the supply is ON (R162, R163). -/
def Obligations.StepKeepsSupplySound : Prop :=
  ∀ s t : State, s.chip.supplySound = true → step s = .next t → t.chip.supplySound = true

/-- The machine right after reset meets the invariants that every step keeps. -/
def Obligations.ResetMeetsInvariants : Prop :=
  State.reset.memoryWf = true ∧ State.reset.chip.engine.areasLegal = true ∧ State.reset.chip.storeInRoom = true
    ∧ State.reset.chip.edgesInRoom = true ∧ State.reset.chip.supplySound = true
    ∧ State.reset.chip.job.result.saturated = true

/-- While the reset pin is asserted, no command but the pin's own two and the raw levels of the inputs
changes anything (R181; the model's reading, log entry 7). -/
def Obligations.ResetPinHoldsPart : Prop :=
  ∀ (i : Instr) (s : State), s.resetPin = true →
    (∀ ws, i ≠ .pinReset ws) → i ≠ .resetPinRelease → (∀ a b, i ≠ .encoderTransition a b) →
    (∀ k b, i ≠ .switchInputChange k b) → exec i s = .next s

/-- A reset pin asserted ends any burst in flight and brings every block to its pin-reset values; each byte
of a write burst cut short is either the byte written or the one that stood there, and every other byte of job
memory is as the host left it.
Its release starts the converter (R181, R18, R149). The model's own: the order of the host's writes and the cut
burst (log entry 2) and the free value for its bytes (log entry 10); that the part is held at these values until
the release (log entry 7); its marks, cleared while the clock goes on, and AREA in use (log entry 37); and the
moment from which the switch levels count as held (log entry 39). -/
def Obligations.PinResetBringsResetValues : Prop :=
  (∀ (ws : HostWrites) (s : State), ∃ m d,
    exec (.pinReset ws) s = .next { s with
      chip := .resetWith 0 0 s.chip.now s.chip.motion.phase s.chip.scanner.phaseFirst s.chip.scanner.phaseSecond
        s.chip.scanner.headClosed.raw s.chip.scanner.taken.raw
      memory := m, resetPin := true, resetWaiting := false, freeDraws := d }
    ∧ ((∀ b, s.chip.port.inFlight = some b → b.write = false) →
        m = Memory.hostWrite s.memory ws ∧ d = s.freeDraws)
    ∧ ∀ b, s.chip.port.inFlight = some b → ∀ a, a < b.addr ∨ b.addr + b.data.length ≤ a →
        Memory.read m a = Memory.read (Memory.hostWrite s.memory ws) a
    ∧ ∀ b, s.chip.port.inFlight = some b → b.write = true → d = s.freeDraws + 1
        ∧ (s.memoryWf = true → ∀ k, k < b.data.length →
            Memory.read m (b.addr + k) = b.data.getD k 0
            ∨ Memory.read m (b.addr + k) = Memory.read (Memory.hostWrite s.memory ws) (b.addr + k)))
  ∧ ∀ s : State, s.resetPin = true →
      exec .resetPinRelease s = .next { s with
        chip :=
          let c := Chip.resetWith 0 0 s.chip.now s.chip.motion.phase s.chip.scanner.phaseFirst
            s.chip.scanner.phaseSecond s.chip.scanner.headClosed.raw s.chip.scanner.taken.raw
          { c with scanner := { c.scanner with converter := .converting .therm (s.chip.now + 10) } }
        resetPin := false }

/-! ## The register window -/

/-- In every state in which R176, R1 or R16 has a host write refused, the write sets REFUSED pending, records
itself as the last refused command, and changes nothing else. A write to the window of other than 32 bits, or to
STATUS, changes nothing and is not refused (R16). -/
def Obligations.RefusedWriteChangesNothingElse : Prop :=
  (∀ (offset : BitVec 4) (width : Nat) (v : Word) (s : State),
    WellFormed (.registerWriteIgnored offset width v) = true →
    exec (.registerWriteIgnored offset width v) s = .next s)
  ∧ ∀ (s : State) (v : Word), s.resetPin = false →
    let refusal : RefusedCommand → Host.Outcome State Fault Refusal := fun r => .next { s with chip := { s.chip with
      engine := { s.chip.engine with
        pendingBits := s.chip.engine.pendingBits ||| 0x40#7, lastRefused := r } } }
    let e := s.chip.engine.state
    (e ≠ .stopped → exec (.areaWrite v) s = refusal .areaWrite ∧ exec .start s = refusal .start)
    ∧ (e = .stopped ∨ e = .stopping → exec .stop s = refusal .stop)
    ∧ (e = .stopped ∨ e = .loading ∨ e = .halted → exec .look s = refusal .look)
    ∧ (e ≠ .halted ∨ s.chip.engine.stopWaiting = true ∨ s.chip.scanner.headClosed.debounced = false →
        exec .resume s = refusal .resume)
    ∧ (∀ l, s.chip.protection.limits = some l → l.trip ≤ s.chip.scanner.therm.toNat →
        exec .resume s = refusal .resume)
    ∧ (e = .stopped ∨ e = .loading → exec .cancelTicket s = refusal .cancelTicket)
    ∧ (e = .stopped ∨ e = .loading ∨ e = .stopping → exec .cancelChain s = refusal .cancelChain)
    ∧ (e = .loading ∨ e = .stopping ∨ e = .halted ∨ s.chip.protection.test.isTesting = true
        ∨ (e = .running ∧ (s.chip.motion.state ≠ .still
            ∨ (s.chip.job.jobState ≠ .dry ∧ s.chip.job.jobState ≠ .ready))) →
        exec .dotTest s = refusal .dotTest)
    ∧ (v.toNat = 0 ∨ 8 < v.toNat → exec (.unknownCommand v) s = refusal .unknown)

/-- A write to AREA in STOPPED keeps bits 23 to 2 of the value written, and changes nothing else; a read of
AREA returns what was kept (R1). -/
def Obligations.AreaWriteKeepsWordAddress : Prop :=
  ∀ (v : Word) (s : State), s.resetPin = false → s.chip.engine.state = .stopped →
    ∃ t, exec (.areaWrite v) s = .next t
      ∧ (∀ k, t.chip.engine.area.getLsbD k = (v.getLsbD k && decide (2 ≤ k) && decide (k < 24)))
      ∧ t.chip.readRegister 0 32 = t.chip.engine.area
      ∧ t = { s with chip := { s.chip with engine := { s.chip.engine with area := t.chip.engine.area } } }

/-- A write to EVENTS clears each pending bit written as 1 and leaves the others, gives the enable bits the
value written, and changes nothing else; INT then stands exactly while some pending bit is enabled (R17). -/
def Obligations.EventsWriteClearsAndEnables : Prop :=
  ∀ (v : Word) (s : State), s.resetPin = false →
    ∃ t, exec (.eventsWrite v) s = .next t
      ∧ (∀ k, k < 7 →
          t.chip.engine.pendingBits.getLsbD k = (s.chip.engine.pendingBits.getLsbD k && !v.getLsbD k)
          ∧ t.chip.engine.enableBits.getLsbD k = v.getLsbD (16 + k))
      ∧ (t.chip.engine.int = true ↔
          ∃ k, k < 7 ∧ t.chip.engine.pendingBits.getLsbD k = true ∧ t.chip.engine.enableBits.getLsbD k = true)
      ∧ t = { s with chip := { s.chip with engine := { s.chip.engine with
          pendingBits := t.chip.engine.pendingBits, enableBits := t.chip.engine.enableBits } } }

/-- A 32-bit read of STATUS shows each of its fields at the place Table 1-11 gives it, and zero above them. -/
def Obligations.StatusShowsItsFields : Prop :=
  ∀ c : Chip,
    let w := c.readRegister 8 32
    w.toNat % 8 = c.engine.state.code
    ∧ w.toNat / 2 ^ 3 % 32 = (match c.engine.firstCause with | none => 0 | some k => k.code)
    ∧ w.toNat / 2 ^ 8 % 256 = c.engine.further.toNat
    ∧ w.toNat / 2 ^ 16 % 16 = c.job.jobState.code
    ∧ w.toNat / 2 ^ 20 % 4 = c.protection.report.code
    ∧ w.getLsbD 22 = decide (c.protection.thermal = .hold)
    ∧ w.getLsbD 23 = c.scanner.headClosed.debounced
    ∧ w.getLsbD 24 = decide (c.protection.supply ≠ .off)
    ∧ w.toNat / 2 ^ 25 = c.engine.lastRefused.code

/-! ## Commands of the host -/

/-- START in STOPPED, with no dot test in hand: the engine enters LOADING on AREA, Held Ticket, the causes,
the trip latch and the media's state are cleared, and the write of Held Ticket as 0 is asked for (R177, R148,
R156, R167). The mark of the last look's zero link is the model's, log entry 27. -/
def Obligations.StartEntersLoading : Prop :=
  ∀ s : State, s.resetPin = false → s.chip.engine.state = .stopped → s.chip.protection.test = .idle →
    s.chip.protection.gate = .closed → s.chip.portInReach = true → s.chip.engine.areaInReach = true →
    ∃ p, exec .start s = .next { s with chip := { s.chip with
        engine := { s.chip.engine with
          state := .loading, areaInUse := s.chip.engine.area, firstCause := none, further := 0 }
        job := { s.chip.job with held := 0, heldWriteFailed := false, lastLookZero := false }
        protection := { s.chip.protection with tripLatch := false, supply := .off, lowRun := 0 }
        motion := { s.chip.motion with
          position := 0, edgeQueue := [], lastEdge := none, measuredPitch := 0, presentedLines := 0, gapRun := 0 }
        scanner := { s.chip.scanner with mediaState := .unknown, candidate := none }
        port := p } }
      ∧ p.asked .job = s.chip.asked .job ∧ p.asked .composer = s.chip.asked .composer
      ∧ p.asked .engine
        = ((s.chip.port.queue .engine).filter fun a => a.issued || !a.purpose.isRecord).map Access.request
          ++ [writeAccess .loadHeld (.area 0x004) [0, 0, 0, 0]]

/-- STOP in RUNNING with job state DRY and no promotion in flight: the engine enters STOPPING, the
next-ticket buffer is emptied and a fetch in flight is withdrawn (R42, R25). -/
def Obligations.StopEntersStopping : Prop :=
  ∀ s : State, s.resetPin = false → s.chip.engine.state = .running → s.chip.job.jobState = .dry →
    s.chip.protection.test = .idle → (∀ g, s.chip.job.activity ≠ .promotion g) →
    s.chip.portInReach = true →
    ∃ p, exec .stop s = .next { s with chip := { s.chip with
        engine := { s.chip.engine with state := .stopping }
        job := { s.chip.job with
          nextBuffer := .empty
          activity := if s.chip.job.activity = .fetch then .none else s.chip.job.activity }
        port := p } }
      ∧ p.asked .job = (s.chip.asked .job).filter (fun a => !a.purpose.isFetch)
      ∧ p.asked .composer = s.chip.asked .composer ∧ p.asked .engine = s.chip.asked .engine

/-- A look trigger, by LOOK or by the look timer, makes a look while the Job Controller waits with none in
flight: in DRY the settings load comes first, with its read of Generation, else the link is read. With a look
in flight LOOK is remembered, and otherwise it changes nothing (R22 to R24). The clock's advance to
the due moment is the model's choice, log entry 4. -/
def Obligations.LookTriggerStartsLook : Prop :=
  ∀ s : State, s.resetPin = false → (s.chip.engine.state = .running ∨ s.chip.engine.state = .stopping) →
    s.chip.portInReach = true → s.chip.engine.areaInReach = true →
    s.chip.engine.locate s.chip.job.link + 4 ≤ Config.memoryReach →
    let look :=
      if s.chip.job.jobState = .dry then readAccess (.settingsFirst .look) (.area 0x040) 4
      else readAccess .lookLink (if s.chip.job.held = 0 then .area 0x000 else .at s.chip.job.held.toNat) 4
    (s.chip.waits = true → s.chip.job.activity = .none →
      (∃ p, exec .look s = .next { s with chip := { s.chip with
          job := { s.chip.job with activity := .look false }, port := p } }
        ∧ p.asked .job = s.chip.asked .job ++ [look] ∧ p.asked .composer = s.chip.asked .composer
        ∧ p.asked .engine = s.chip.asked .engine)
      ∧ ∀ at0, s.chip.job.lookTimer = some at0 →
        ∃ p, exec .lookTimerExpiry s = .next { s with chip := { s.chip with
            now := max s.chip.now at0
            job := { s.chip.job with lookTimer := none, activity := .look false }, port := p } }
          ∧ p.asked .job = s.chip.asked .job ++ [look] ∧ p.asked .composer = s.chip.asked .composer
          ∧ p.asked .engine = s.chip.asked .engine)
    ∧ (∀ again, s.chip.job.activity = .look again → ∃ p, exec .look s = .next { s with chip := { s.chip with
        job := { s.chip.job with activity := .look true }, port := p } }
        ∧ ∀ k, p.asked k = s.chip.asked k)
    ∧ ((∀ again, s.chip.job.activity ≠ .look again) → s.chip.waits = false →
        ∃ p, exec .look s = .next { s with chip := { s.chip with port := p } }
          ∧ ∀ k, p.asked k = s.chip.asked k)

/-- RESUME in HALTED, halted from RUNNING or STOPPING with no trip condition standing and no ticket current:
the engine enters RUNNING, the causes and the trip latch are cleared, the supply settles afresh, the Composer
is released, and with no ticket being ended a look begins with its settings load. The end write-back of a ticket
being ended, where it failed or was in flight at the halt, is made again from its first write (R180, R167, R162,
R72, R24, R36, R44, R45; that one still in flight at RESUME begins anew is the model's reading, log entry 15). -/
def Obligations.ResumeEntersRunning : Prop :=
  ∀ s : State, s.resetPin = false → s.chip.engine.state = .halted → s.chip.engine.stopWaiting = false →
    s.chip.tripStands = false → s.chip.engine.haltedFrom ≠ some .loading →
    s.chip.composer.state = .suspended → s.chip.protection.supply = .off → s.chip.job.current = none →
    s.chip.job.heldWriteFailed = false → s.chip.job.jobState = .dry →
    s.chip.job.nextBuffer = .empty → s.chip.job.activity = .none →
    s.chip.portInReach = true → s.chip.engine.areaInReach = true →
    let resumed : JobController → MemoryPort → State := fun j p => { s with chip := { s.chip with
      engine := { s.chip.engine with state := .running, firstCause := none, further := 0 }
      protection := { s.chip.protection with
        tripLatch := false, supply := .settling (s.chip.now + 5000) }
      composer := .reset, job := j, port := p } }
    (s.chip.job.ending = none →
      ∃ p, exec .resume s = .next (resumed { s.chip.job with activity := .look false } p)
        ∧ p.asked .job = s.chip.asked .job ++ [readAccess (.settingsFirst .look) (.area 0x040) 4]
        ∧ p.asked .composer = s.chip.asked .composer ∧ p.asked .engine = s.chip.asked .engine)
    ∧ ∀ e, s.chip.job.ending = some e → (e.failed = true ∨ e.remake = true) →
        e.ticket.addr.toNat + 0x40 ≤ Config.memoryReach →
        (∀ n ∈ nextValues e.ticket e.result.copiesCompleted,
          e.ticket.addr.toNat + n.1 + 0x1C ≤ Config.memoryReach) →
        ∃ p, exec .resume s = .next (resumed
            { s.chip.job with ending := some { e with failed := false, remake := false } } p)
          ∧ p.asked .job = (s.chip.asked .job).filter (fun a => !a.purpose.isEnd)
            ++ [writeAccess .endResult (.at (e.ticket.addr.toNat + 0x20)) (resultBytes e.result)]
            ++ (if e.ticket.kind = .print then
                  (nextValues e.ticket e.result.copiesCompleted).map fun n =>
                    writeAccess .endNextValue (.at (e.ticket.addr.toNat + n.1 + 0x18)) (leBytes 4 n.2)
                else [])
            ++ [writeAccess .endState (.at (e.ticket.addr.toNat + 4)) [BitVec.ofNat 8 e.state.code]]
          ∧ p.asked .composer = s.chip.asked .composer ∧ p.asked .engine = s.chip.asked .engine

/-- RESUME with a faulted PRINT ticket whose REPRINT_ON_FAULT is set: the ticket returns to READY, its copy
in hand is given to the Composer again under the same number, and the register is flushed (R45, R72, R69,
R124). -/
def Obligations.ResumeReprintsFaultedTicket : Prop :=
  ∀ (s : State) (t : Ticket), s.resetPin = false → s.chip.engine.state = .halted →
    s.chip.engine.stopWaiting = false → s.chip.tripStands = false →
    s.chip.engine.haltedFrom ≠ some .loading → s.chip.composer.state = .suspended →
    s.chip.protection.supply = .off → s.chip.job.current = some t → t.kind = .print →
    t.reprintOnFault = true → s.chip.job.faulted = true → s.chip.job.ending = none →
    s.chip.job.heldWriteFailed = false → s.chip.job.nextBuffer = .empty → s.chip.job.activity = .none →
    s.chip.portInReach = true → s.chip.engine.areaInReach = true →
    s.chip.engine.locate s.chip.job.link + 4 ≤ Config.memoryReach →
    ∃ p, exec .resume s = .next { s with chip := { s.chip with
        engine := { s.chip.engine with state := .running, firstCause := none, further := 0 }
        protection := { s.chip.protection with
          tripLatch := false, supply := .settling (s.chip.now + 5000) }
        composer := .reset
        burn := { s.chip.burn with register := none }
        job := { s.chip.job with
          jobState := .ready, faulted := false, compositionStart := some s.chip.job.copyInHand
          activity := .look false }
        port := p } }
      ∧ p.asked .job = s.chip.asked .job
        ++ [readAccess (.resourceTable s.chip.job.copyInHand) (.area 0x0B0) 256,
            readAccess .lookLink (if s.chip.job.held = 0 then .area 0x000 else .at s.chip.job.held.toNat) 4]
      ∧ p.asked .composer = [] ∧ p.asked .engine = s.chip.asked .engine

/-- CANCEL_TICKET in RUNNING with a ticket current in READY and Motion STILL: the ticket's end is decided as
CANCELLED and its end write-back is asked for (the result block, the Next Values of a PRINT ticket's SERIAL
records, State), the Composer, the Line Store, the register and the history are emptied, and the job state is
DRY. With no ticket current it changes nothing (R39, R36, R69, R101, R123, R146). That a Resource Table read and a
start's settings load in hand are withdrawn is the model's choice, log entries 52 and 53. -/
def Obligations.CancelTicketEndsReadyTicket : Prop :=
  ∀ s : State, s.resetPin = false → s.chip.engine.state = .running → s.chip.portInReach = true →
    (∀ t, s.chip.job.current = some t → s.chip.job.jobState = .ready → s.chip.motion.state = .still →
      s.chip.motion.operation = .none → s.chip.composer.state ≠ .suspended →
      t.addr.toNat + 0x40 ≤ Config.memoryReach →
      (∀ n ∈ nextValues t s.chip.job.result.copiesCompleted,
        t.addr.toNat + n.1 + 0x1C ≤ Config.memoryReach) →
      ∃ p, exec .cancelTicket s = .next { s with chip := { s.chip with
          job := { s.chip.job with
            current := none
            ending := some { ticket := t, state := .cancelled
                             result := { s.chip.job.result with outcome := .cancelled }
                             failed := false, remake := false }
            jobState := .dry, copyInHand := 0, starting := false, faulted := false
            compositionStart := none, samplingReported := false }
          composer := .reset
          burn := { s.chip.burn with
            register := none, plan := none, previousRow := 0, rowBefore := 0, lastLineStart := none }
          motion := { s.chip.motion with
            operation := .none, timer := .stopped, speedStep := 0, rampCount := 0, stretchMark := false
            searchCount := 0 }
          port := p } }
        ∧ p.asked .job
          = (s.chip.asked .job).filter (fun a => !(a.purpose.isResourceTable || a.purpose.isLoadFor .copyStart))
            ++ [writeAccess .endResult (.at (t.addr.toNat + 0x20))
                  (resultBytes { s.chip.job.result with outcome := .cancelled })]
            ++ (if t.kind = .print then
                  (nextValues t s.chip.job.result.copiesCompleted).map fun n =>
                    writeAccess .endNextValue (.at (t.addr.toNat + n.1 + 0x18)) (leBytes 4 n.2)
                else [])
            ++ [writeAccess .endState (.at (t.addr.toNat + 4)) [5]]
        ∧ p.asked .composer = [] ∧ p.asked .engine = s.chip.asked .engine)
    ∧ (s.chip.job.current = none → ∃ p, exec .cancelTicket s = .next { s with chip := { s.chip with port := p } }
        ∧ ∀ q, p.asked q = s.chip.asked q)

/-- CANCEL_CHAIN in RUNNING with no ticket current or being ended and no promotion or walk in flight: the
next-ticket buffer is emptied, a fetch or look in flight is withdrawn, and the chain walk begins with a read of
the link waited on (R40, R41, R25). That a look is withdrawn is the model's reading, log entry
19; the mark of the last look's zero link, which a look withdrawn so did not read (R23), is the model's, log entry
37. -/
def Obligations.CancelChainBeginsWalk : Prop :=
  ∀ s : State, s.resetPin = false → s.chip.engine.state = .running → s.chip.job.current = none →
    s.chip.job.ending = none → (∀ g, s.chip.job.activity ≠ .promotion g) → s.chip.job.activity ≠ .walk →
    s.chip.portInReach = true → s.chip.engine.locate s.chip.job.link + 4 ≤ Config.memoryReach →
    ∃ p, exec .cancelChain s = .next { s with chip := { s.chip with
        job := { s.chip.job with
          nextBuffer := .empty, activity := .walk, walkWaiting := false
          lastLookZero := match s.chip.job.activity with
            | .look _ => false
            | _ => s.chip.job.lastLookZero }
        port := p } }
      ∧ p.asked .job = (s.chip.asked .job).filter (fun a => !(a.purpose.isFetch || a.purpose.isLook))
        ++ [readAccess .walkLink (if s.chip.job.held = 0 then .area 0x000 else .at s.chip.job.held.toNat) 4]
      ∧ p.asked .composer = s.chip.asked .composer ∧ p.asked .engine = s.chip.asked .engine

/-- RESET: with no burst in flight every block takes its reset values at once, but AREA, the event enables and
the raw levels of the inputs, and the converter starts with THERM. With a burst in flight the reset waits for
it, and then takes the same effect, whether the burst completes or a bus error ends it: a completed write burst
leaves its bytes in job memory, and each byte of one that a bus error ended is either the byte written or the one
that stood there (R181, R18, R149). The model's own: that the whole reset waits for the burst, and that the bus
error is not reported (log entry 8); the host's writes as an operand, standing before the burst (log entry 2); the
free value for the bytes of a failed burst (log entry 10); the model's marks, cleared while the clock goes on, and
AREA in use (log entry 37); and the moment from which the switch levels count as held (log entry 39). -/
def Obligations.SoftResetKeepsAreaAndEnables : Prop :=
  ∀ (s : State) (ws : HostWrites), s.resetPin = false →
    let fresh :=
      let c := Chip.resetWith s.chip.engine.area s.chip.engine.enableBits s.chip.now s.chip.motion.phase
        s.chip.scanner.phaseFirst s.chip.scanner.phaseSecond s.chip.scanner.headClosed.raw s.chip.scanner.taken.raw
      { c with scanner := { c.scanner with converter := .converting .therm (s.chip.now + 10) } }
    (s.chip.port.inFlight = none → exec .reset s = .next { s with chip := fresh })
    ∧ ∀ b, s.chip.port.inFlight = some b →
        exec .reset s = .next { s with resetWaiting := true }
        ∧ (s.resetWaiting = true →
            exec (.burstComplete ws) s = .next { s with
              chip := fresh, resetWaiting := false
              memory := if b.write then Memory.writeRun (Memory.hostWrite s.memory ws) b.addr b.data
                else Memory.hostWrite s.memory ws }
            ∧ ∃ m, exec (.busError ws) s = .next { s with
                chip := fresh, resetWaiting := false, memory := m
                freeDraws := if b.write then s.freeDraws + 1 else s.freeDraws }
              ∧ (∀ a, b.write = false ∨ a < b.addr ∨ b.addr + b.data.length ≤ a →
                  Memory.read m a = Memory.read (Memory.hostWrite s.memory ws) a)
              ∧ (b.write = true → s.memoryWf = true → ∀ k, k < b.data.length →
                  Memory.read m (b.addr + k) = b.data.getD k 0
                  ∨ Memory.read m (b.addr + k) = Memory.read (Memory.hostWrite s.memory ws) (b.addr + k)))

/-- ENTER_STOPPED: in STOPPING, with the conditions of R43, no operation of Motion in hand (R147; log entry 40)
and no dot test in hand, the engine enters STOPPED
and each block takes the values its chapter gives for that entry (R43, R74, R127, R148, R162, R163). In
STOPPED control-area accesses go by AREA (R1), so their reach is that of AREA. The mark of the last look's zero
link is the model's, log entry 27; that a look, a start's settings load and a Resource Table read in hand are
withdrawn is the model's choice, log entries 52, 53 and 56. -/
def Obligations.StoppingEndsInStopped : Prop :=
  ∀ s : State, s.resetPin = false → s.chip.engine.state = .stopping → s.chip.job.current = none →
    s.chip.job.ending = none → (∀ g, s.chip.job.activity ≠ .promotion g) → s.chip.job.activity ≠ .walk →
    s.chip.job.jobState ≠ .print → s.chip.job.jobState ≠ .feeding → s.chip.job.jobState ≠ .calibrating →
    s.chip.motion.state = .still → s.chip.motion.operation = .none → s.chip.protection.test = .idle →
    ({ s.chip with engine := { s.chip.engine with state := .stopped } } : Chip).portInReach = true →
    ∃ p, exec .enterStopped s = .next { s with chip := { s.chip with
        engine := { s.chip.engine with state := .stopped, stopWaiting := false }
        job := { JobController.reset with
          held := s.chip.job.held, dryMark := s.chip.job.dryMark, lastLookZero := s.chip.job.lastLookZero
          snapshot := s.chip.job.snapshot, lastGeneration := s.chip.job.lastGeneration
          resources := s.chip.job.resources }
        composer := .reset
        burn := { BurnController.reset with values := s.chip.burn.values, darkness := s.chip.burn.darkness }
        motion := { s.chip.motion with
          operation := .none, timer := .stopped, speedStep := 0, rampCount := 0, stretchMark := false }
        protection := { s.chip.protection with supply := .off, gate := .closed, lowRun := 0 }
        port := p } }
      ∧ p.asked .job = (s.chip.asked .job).filter (fun a => !a.purpose.endsAtHalt)
      ∧ p.asked .composer = [] ∧ p.asked .engine = s.chip.asked .engine

/-! ## Job memory -/

/-- BURST_COMPLETE of a write burst: its bytes stand in job memory at its run, every other byte is as the host
left it, and no free value is drawn (R18, R2: writes are byte-exact). The host's writes come as an operand by
the model's choice, log entry 2. -/
def Obligations.WriteBurstIsByteExact : Prop :=
  ∀ (s : State) (ws : HostWrites) (b : Burst), s.resetPin = false → s.chip.port.inFlight = some b →
    b.write = true → s.memoryWf = true → b.addr + b.data.length ≤ Config.memoryReach →
    ∃ t, exec (.burstComplete ws) s = .next t
      ∧ Memory.readRun t.memory b.addr b.data.length = b.data
      ∧ (∀ a, a < b.addr ∨ b.addr + b.data.length ≤ a →
          Memory.read t.memory a = Memory.read (Memory.hostWrite s.memory ws) a)
      ∧ t.freeDraws = s.freeDraws

/-- BURST_COMPLETE of a look's read of the link. A value of zero ends the look, the look timer is started if the
Job Controller still waits, and in DRY with the dry mark clear CHAIN_DRY is set pending and the mark set; a good
address has the header of the ticket there asked for; a value that may not be followed is reported as
CHAIN_ADDRESS with the value as the captured Ticket Address, the engine halts, Held Ticket stays, and the Fault
Record is to be written (R21, R23, R24, R178). The host's writes come as an operand by the model's choice, log
entry 2; the mark of the last look's zero link is the model's, log entry 37. The model's too is what the halt leaves
asked for: of Engine Control's accesses, log entries 14, 17, 31 and 47 (a dot test whose start is in hand: its
settings load is withdrawn, its outcome written); of the Job Controller's, log entries 52, 53 and 56. -/
def Obligations.LookFollowsGoodLink : Prop :=
  ∀ (s : State) (ws : HostWrites) (b : Burst) (a : Access) (rest : List Access), s.resetPin = false →
    s.resetWaiting = false → s.chip.port.inFlight = some b → b.requester = .job → b.write = false →
    b.withdrawn = false → b.length = 4 → s.chip.port.jobQueue = a :: rest → a.purpose = .lookLink →
    a.write = false → a.carried = 0 → a.length = 4 → a.data = [] →
    s.chip.engine.state = .running → s.chip.engine.firstCause = none → s.chip.job.activity = .look false →
    s.chip.portInReach = true → s.chip.engine.areaInReach = true →
    let v : Word := BitVec.ofNat 32
      (leNat (Memory.readRun (Memory.hostWrite s.memory ws) b.addr 4))
    (v ≠ 0 → linkGood v = true → v.toNat + 32 ≤ Config.memoryReach →
      ∃ p, exec (.burstComplete ws) s = .next { s with
          memory := Memory.hostWrite s.memory ws
          chip := { s.chip with job := { s.chip.job with lastLookZero := false }, port := p } }
        ∧ p.asked .job = rest.map Access.request ++ [readAccess (.lookHeader v) (.at v.toNat) 32]
        ∧ p.asked .composer = s.chip.asked .composer ∧ p.asked .engine = s.chip.asked .engine)
    ∧ (v ≠ 0 → linkGood v = false →
      ∃ t, exec (.burstComplete ws) s = .next t ∧ t.memory = Memory.hostWrite s.memory ws
        ∧ t.chip.engine.state = .halted ∧ t.chip.engine.haltedFrom = some .running
        ∧ t.chip.engine.firstCause = some .chainAddress
        ∧ t.chip.engine.further = 0
        ∧ t.chip.engine.capture = some { cause := .chainAddress, stateBefore := .running, ticket := v
                                         copy := s.chip.burn.lastCopy, line := s.chip.burn.lastLine
                                         therm := s.chip.scanner.therm, supply := s.chip.scanner.supply
                                         media := s.chip.scanner.media }
        ∧ t.chip.engine.isPending .halt = true
        ∧ t.chip.job.held = s.chip.job.held ∧ t.chip.job.activity = .none
        ∧ t.chip.asked .job = (rest.map Access.request).filter (fun a => !a.purpose.endsAtHalt)
        ∧ t.chip.asked .composer = [] ∧ t.chip.asked .engine = s.chip.engineAskedAtHalt)
    ∧ (v = 0 →
      let raises := s.chip.job.jobState = .dry ∧ s.chip.job.dryMark = false
      ∃ p, exec (.burstComplete ws) s = .next { s with
          memory := Memory.hostWrite s.memory ws
          chip := { s.chip with
            engine := { s.chip.engine with
              pendingBits := if raises then s.chip.engine.pendingBits ||| 0x02#7 else s.chip.engine.pendingBits }
            job := { s.chip.job with
              activity := .none, lastLookZero := true
              dryMark := if raises then true else s.chip.job.dryMark
              lookTimer :=
                if s.chip.job.nextBuffer = .empty ∧ s.chip.job.ending = none then
                  match s.chip.job.snapshot with
                  | none => none
                  | some x => if x.lookInterval = 0 then none else some (s.chip.now + 1000 * x.lookInterval)
                else s.chip.job.lookTimer }
            port := p } }
        ∧ p.asked .job = rest.map Access.request
        ∧ p.asked .composer = s.chip.asked .composer ∧ p.asked .engine = s.chip.asked .engine)

/-- BUS_ERROR on a source read of the Composer in RUNNING, with no cause held: the engine halts on
MEMORY_FAULT with the current ticket's address captured, the Composer is SUSPENDED with its Line Store empty,
job memory is as the host left it, and the Fault Record is to be written: with nothing else asked for by Engine
Control it is issued at once, its 32 bytes at control area offset 010h (R20, R71, R73, R178, R1). The host's
writes come as an operand by the model's choice, log entry 2. The model's too is what the halt leaves asked for: of
Engine Control's accesses, log entries 14, 17, 31 and 47 (a dot test whose start is in hand: its settings load is
withdrawn, its outcome written); of the Job Controller's, log entries 52, 53 and 56. -/
def Obligations.BusErrorOnSourceReadHalts : Prop :=
  ∀ (s : State) (ws : HostWrites) (b : Burst), s.resetPin = false → s.resetWaiting = false →
    s.chip.port.inFlight = some b → b.requester = .composer → b.purpose = .source → b.write = false →
    b.withdrawn = false → s.chip.engine.state = .running → s.chip.engine.firstCause = none →
    s.chip.portInReach = true → s.chip.engine.areaInReach = true →
    let capture : FaultCapture := {
      cause := .memoryFault, stateBefore := .running, ticket := s.chip.job.currentAddress
      copy := s.chip.burn.lastCopy, line := s.chip.burn.lastLine
      therm := s.chip.scanner.therm, supply := s.chip.scanner.supply, media := s.chip.scanner.media }
    ∃ t, exec (.busError ws) s = .next t ∧ t.memory = Memory.hostWrite s.memory ws
      ∧ t.freeDraws = s.freeDraws
      ∧ t.chip.engine.state = .halted ∧ t.chip.engine.haltedFrom = some .running
      ∧ t.chip.engine.firstCause = some .memoryFault ∧ t.chip.engine.further = 0
      ∧ t.chip.engine.capture = some capture
      ∧ t.chip.engine.isPending .halt = true
      ∧ t.chip.composer = { Composer.reset with state := .suspended }
      ∧ t.chip.job.current = s.chip.job.current
      ∧ t.chip.asked .job = (s.chip.asked .job).filter (fun a => !a.purpose.endsAtHalt)
      ∧ t.chip.asked .composer = [] ∧ t.chip.asked .engine = s.chip.engineAskedAtHalt
      ∧ (s.chip.port.engineQueue = [] → s.chip.protection.test = .idle →
          t.chip.port.engineQueue = [{ recordAccess .faultRecord with
            issued := true, addr := s.chip.engine.areaInUse.toNat + 0x010
            data := leBytes 1 7 ++ leBytes 1 2 ++ leBytes 1 0 ++ leBytes 1 0
              ++ leBytes 4 capture.ticket.toNat ++ leBytes 2 capture.copy ++ leBytes 2 capture.line
              ++ leBytes 2 capture.therm.toNat ++ leBytes 2 capture.supply.toNat
              ++ leBytes 2 capture.media.toNat ++ leBytes 14 0 }])

/-- Every burst of an access carries at least one byte and at most 64, begins where the burst before it
ended, stays within the access, and never crosses a 64-byte boundary (R18). -/
def Obligations.BurstsStayWithin64ByteBlocks : Prop :=
  ∀ (q : Requester) (a : Access), a.carried < a.length →
    let b := burstOf q a
    b.requester = q ∧ b.addr = a.addr + a.carried ∧ 1 ≤ b.length ∧ b.length ≤ 64
      ∧ b.addr / 64 = (b.addr + b.length - 1) / 64
      ∧ a.carried + b.length ≤ a.length
      ∧ (a.carried + b.length < a.length → (b.addr + b.length) % 64 = 0)

/-- The arbiter's choice (R19): with a burst in flight the port stays as it is; with the port free and no
burst waiting nothing is carried; a requester that alone waits is carried; with several waiting, the Composer
is carried below 8 lines if it waits, and otherwise the first waiting requester in the rotation after the one
served last. What is carried is the next burst of the requester's own first access; the requester carried becomes
the one served last, and nothing else of the port changes. The level is the Line Store's at that moment; and
after either reset the one served last is Engine Control, so the first rotation begins at the Job Controller.
That the accesses asked for in a step are issued before the choice, and that none that can be issued, or ended as
reaching too far, is left over, is the model's reading of R18, log entry 22. -/
def Obligations.ArbiterChoosesByLevelAndRotation : Prop :=
  (∀ area enables now phase first second head taken,
    (Chip.resetWith area enables now phase first second head taken).port.lastServed = .engine)
  ∧ (∀ c : Chip, c.settlePort.port
      = (c.issueAccesses c.issueWork).port.carry (c.issueAccesses c.issueWork).composer.store.length
    ∧ c.settlePort.port.unissued = none)
  ∧ ∀ (p : MemoryPort) (level : Nat),
    (∀ b, p.inFlight = some b → p.carry level = p)
    ∧ (p.inFlight = none → (∀ q, p.waiting q = false) → p.carry level = p)
    ∧ (p.inFlight = none → ∀ q, p.waiting q = true →
        let served := fun r => ∃ a rest, p.queue r = a :: rest
          ∧ p.carry level = { p with inFlight := some (burstOf r a), lastServed := r }
        ((∀ r, r ≠ q → p.waiting r = false) → served q)
        ∧ (q = .composer → level < 8 → served .composer)
        ∧ (¬ (p.waiting .composer = true ∧ level < 8) →
            let next : Requester → Requester := fun r => match r with
              | .job => .composer
              | .composer => .engine
              | .engine => .job
            let first := next p.lastServed
            served (if p.waiting first = true then first
              else if p.waiting (next first) = true then next first else next (next first))))

/-! ## Tickets and copies -/

/-- PROMOTION, once its conditions hold and with no chain walk in flight (log entry 54), first re-reads the State
of the ticket in the next-ticket buffer (R27). -/
def Obligations.PromotionRereadsState : Prop :=
  ∀ (s : State) (addr : Word) (bytes : List Byte) (v : Verdict), s.resetPin = false →
    s.chip.job.nextBuffer = .full addr bytes v → s.chip.job.current = none → s.chip.job.ending = none →
    s.chip.engine.state = .running → s.chip.job.activity = .none → addr.toNat + 5 ≤ Config.memoryReach →
    s.chip.portInReach = true →
    ∃ p, exec .promotion s = .next { s with chip := { s.chip with
        job := { s.chip.job with
          activity := .promotion .reread, promoStop := false, promoCancel := false, promoHalt := false }
        port := p } }
      ∧ p.asked .job = s.chip.asked .job ++ [readAccess .promotionState (.at (addr.toNat + 4)) 1]
      ∧ p.asked .composer = s.chip.asked .composer ∧ p.asked .engine = s.chip.asked .engine

/-- The completion of a ticket's TAKEN write, with no STOP or CANCEL CHAIN met: the ticket is current and the
Held Ticket, its running result is zero, the dry mark and the low mark are cleared, the job state is READY,
copy 1 reaches composition start, and a look on its Next follows (R29, R30, R32, R24). The host's writes come as
an operand by the model's choice, log entry 2. -/
def Obligations.TakenWriteMakesTicketCurrent : Prop :=
  ∀ (s : State) (ws : HostWrites) (b : Burst) (a : Access) (addr : Word) (bytes : List Byte) (t : Ticket),
    s.resetPin = false → s.resetWaiting = false → s.chip.port.inFlight = some b → b.requester = .job →
    b.write = true → b.withdrawn = false → s.chip.port.jobQueue = [a] → a.purpose = .takenState →
    a.write = true → a.length ≤ a.carried + b.length →
    s.chip.job.nextBuffer = .full addr bytes (.valid t) → t.kind = .print → s.chip.job.current = none →
    s.chip.job.ending = none → s.chip.job.activity = .promotion .taking → s.chip.job.promoStop = false →
    s.chip.job.promoCancel = false → s.chip.job.walkWaiting = false → s.chip.job.jobState = .dry →
    s.chip.engine.state = .running → s.chip.composer.state = .idle → t.addr ≠ 0 →
    t.addr.toNat + 4 ≤ Config.memoryReach → s.chip.portInReach = true → s.chip.engine.areaInReach = true →
    ∃ p, exec (.burstComplete ws) s = .next { s with
        memory := Memory.writeRun (Memory.hostWrite s.memory ws) b.addr b.data
        chip := { s.chip with
          job := { s.chip.job with
            current := some t, held := t.addr, nextBuffer := .empty, result := .zero, copyInHand := 1
            dryMark := false, jobState := .ready, compositionStart := some 1, activity := .look false
            promoStop := false, promoCancel := false, promoHalt := false }
          scanner := { s.chip.scanner with lowMark := false }
          port := p } }
      ∧ p.asked .job = [writeAccess .heldWrite (.area 0x004) (leBytes 4 t.addr.toNat),
          readAccess (.resourceTable 1) (.area 0x0B0) 256, readAccess .lookLink (.at t.addr.toNat) 4]
      ∧ p.asked .composer = s.chip.asked .composer ∧ p.asked .engine = s.chip.asked .engine

/-- A copy, FEED or CALIBRATE start (COPY_START, with every start condition of R31 holding in READY) and a dot
test (DOT_TEST, where it is taken) each begin with their settings load (R31, R170, R3; the test counts as in
progress from the command on, and a second one taken during the load makes its own, log entry 17). -/
def Obligations.StartsLoadSettingsFirst : Prop :=
  ∀ s : State, s.resetPin = false → s.chip.portInReach = true → s.chip.engine.areaInReach = true →
    (∀ t, s.chip.job.current = some t → s.chip.protection.test = .idle → s.chip.engine.state = .running →
      s.chip.job.jobState = .ready →
      s.chip.protection.gate = .opened → (t.kind = .print → s.chip.protection.thermal = .normal) →
      s.chip.job.starting = false →
      ∃ p, exec .copyStart s = .next { s with chip := { s.chip with
          job := { s.chip.job with starting := true }, port := p } }
        ∧ p.asked .job = s.chip.asked .job ++ [readAccess (.settingsFirst .copyStart) (.area 0x040) 4]
        ∧ p.asked .composer = s.chip.asked .composer ∧ p.asked .engine = s.chip.asked .engine)
    ∧ (s.chip.protection.test.isTesting = false →
        (s.chip.engine.state = .stopped ∨ (s.chip.engine.state = .running ∧ s.chip.motion.state = .still
        ∧ (s.chip.job.jobState = .dry ∨ s.chip.job.jobState = .ready))) →
      ∃ p, exec .dotTest s = .next { s with chip := { s.chip with
          protection := { s.chip.protection with test := .starting }, port := p } }
        ∧ p.asked .job = s.chip.asked .job ∧ p.asked .composer = s.chip.asked .composer
        ∧ p.asked .engine = s.chip.asked .engine ++ [readAccess (.settingsFirst .dotTest) (.area 0x040) 4])

/-- The start of a PRINT ticket's copy on CONTINUOUS media with nothing presented, when its Generation read
gives the last loaded Generation and the start conditions still hold: the values of the snapshot are handed to
the blocks, the darkness and the target speed step are the ticket's overrides or the snapshot's defaults, the
job state is ALIGN, and the alignment's target is one line ahead (R3, R7, R31, R112, R134, R138). The host's
writes come as an operand by the model's choice, log entry 2. -/
def Obligations.UnchangedSettingsStartCopy : Prop :=
  ∀ (s : State) (ws : HostWrites) (b : Burst) (a : Access) (rest : List Access) (t : Ticket) (v : Settings)
    (gen : Word),
    s.resetPin = false → s.resetWaiting = false → s.chip.port.inFlight = some b → b.requester = .job →
    b.write = false → b.withdrawn = false → b.length = 4 → s.chip.port.jobQueue = a :: rest →
    a.purpose = .settingsFirst .copyStart → a.write = false → a.carried = 0 → a.length = 4 → a.data = [] →
    s.chip.job.current = some t → t.kind = .print → s.chip.engine.state = .running →
    s.chip.job.jobState = .ready → s.chip.protection.test = .idle → s.chip.protection.gate = .opened →
    s.chip.protection.thermal = .normal → s.chip.job.copyInHand ≠ 1 →
    s.chip.job.snapshot = some v → s.chip.job.lastGeneration = some gen →
    BitVec.ofNat 32 (leNat (Memory.readRun (Memory.hostWrite s.memory ws) b.addr 4)) = gen →
    v.mediaKind = .continuous → s.chip.scanner.values.mediaKind = .continuous →
    s.chip.motion.presentedLines = 0 → s.chip.motion.state = .still → s.chip.motion.timer = .stopped →
    s.chip.portInReach = true →
    ∃ p, exec (.burstComplete ws) s = .next { s with
        memory := Memory.hostWrite s.memory ws
        chip := { s.chip with
          job := { s.chip.job with starting := false, jobState := .align }
          burn := { s.chip.burn with
            values := v.burnValues, darkness := t.darkness.getD v.defaultDarkness }
          protection := { s.chip.protection with limits := some v.limits }
          scanner := { s.chip.scanner with values := v.mediaValues }
          motion := { s.chip.motion with
            values := v.motionValues (t.speed.getD v.defaultSpeed)
            operation := .align (some (s.chip.motion.position + 1)) true, searchCount := 0 }
          port := p } }
      ∧ p.asked .job = rest.map Access.request
      ∧ p.asked .composer = s.chip.asked .composer ∧ p.asked .engine = s.chip.asked .engine

/-! ## Composing lines -/

/-- COMPOSE_LINE on a line at which the objects that enter are RULEs, for which the Active Object List has room,
and at which no active object needs a read: the objects that have left are dropped, each object that enters takes
the place of its object index, the line is drawn from all zero by each active object in increasing index and
clipped to the label area; while the store has room it is appended, and the next line follows, or after the LAST
line of a copy the Composer is IDLE, and in RUNNING the next copy of a ticket that has one reaches composition
start with its Resource Table read; while the store holds 32 lines it is held in WAIT_ROOM (R55, R56, R58 to R60,
R65 to R68, R32). The result of a ticket keeps its counts, which stand at 255 or below (R35). That an object for
which the line reads nothing (a Spacing column) keeps the source it holds is the model's choice, log entry 43. -/
def Obligations.ComposeLineDrawsActiveObjects : Prop :=
  ∀ (s : State) (g : CopyGeometry), s.resetPin = false → s.chip.composer.copy = some g →
    s.chip.composer.work = .ready → s.chip.job.result.saturated = true → s.chip.portInReach = true →
    s.chip.engine.areaInReach = true →
    let p := s.chip.composer.nextLine
    let staying := s.chip.composer.activeList.filter fun o => decide (o.leaveLine + 1 ≠ p)
    let entering := s.chip.composer.pendingList.filter fun e => decide (e.entryLine = p)
    let ruleOf : PendingEntry → Option (PrintObject × Nat) := fun e =>
      match s.chip.job.current with
      | none => none
      | some t =>
        match t.objects[e.index]? with
        | none => none
        | some o =>
          match o.body with
          | .rule _ _ border => some (o, border)
          | _ => none
    let contexts : List ObjectContext := entering.filterMap fun e => (ruleOf e).map fun x =>
      { index := e.index, op := x.1.op, box := e.box, firstColumn := e.firstColumn, entryLine := e.entryLine
        leaveLine := e.leaveLine, rotation := x.1.rotation, magX := x.1.magX, magY := x.1.magY
        body := .rule x.2, held := none }
    let active := contexts.foldl (fun l c =>
      l.takeWhile (fun a => decide (a.index ≤ c.index))
        ++ c :: l.dropWhile fun a => decide (a.index ≤ c.index)) staying
    let r : LineRecord :=
      { dots := (active.foldl (fun line o => o.applyTo g p line) 0) &&& g.labelArea
        copy := g.copy, line := p, first := decide (p = 0), last := decide (p + 1 = g.labelLength) }
    let room := s.chip.composer.store.length < 32
    let more := room ∧ r.last = true ∧ s.chip.engine.state = .running
      ∧ (s.chip.job.current.any fun t => decide (g.copy < t.copies)) = true
    (∀ e ∈ entering, (ruleOf e).isSome = true ∧ staying.length + entering.length ≤ 24) →
    (active.map (·.index)).Nodup → (∀ o ∈ active, o.mustRead g p = none) →
    let composer := { s.chip.composer with
      activeList := active, pendingList := s.chip.composer.pendingList.filter fun e => decide (e.entryLine ≠ p) }
    ∃ q, exec .composeLine s = .next { s with chip := { s.chip with
        composer :=
          if ¬ room then { composer with state := .waitRoom, work := .hold r }
          else if r.last then { Composer.reset with store := s.chip.composer.store ++ [r] }
          else
            { composer with
              state := .composing, store := s.chip.composer.store ++ [r], nextLine := p + 1, work := .ready }
        job := { s.chip.job with
          compositionStart := if more then some (g.copy + 1) else s.chip.job.compositionStart }
        port := q } }
      ∧ q.asked .job = s.chip.asked .job
        ++ (if more then [readAccess (.resourceTable (g.copy + 1)) (.area 0x0B0) 256] else [])
      ∧ q.asked .composer = s.chip.asked .composer ∧ q.asked .engine = s.chip.asked .engine

/-- Glyph lookup (R92). -/
def Obligations.GlyphLookupStaysInSet : Prop :=
  ∀ (h : GlyphHeader) (c : Nat), 1 ≤ h.count →
    h.lookup c < h.count
    ∧ (h.first ≤ c → c < h.first + h.count → h.carries c = true ∧ h.lookup c = c - h.first)
    ∧ (c < h.first ∨ h.first + h.count ≤ c →
        h.carries c = false ∧ h.lookup c = if h.default < h.count then h.default else 0)
    ∧ ∀ i, i < h.count → 256 - h.first ≤ i → h.first ≤ 255 → c ≤ 255 → h.carries c = true → h.lookup c ≠ i

/-- The serial value of a copy lies within its digits, is its start for copy 1, and moves by Step from one
copy to the next, counted around 10^Digits; the Next Value written after `k` copies is the value that copy
k + 1 would carry (R98, R101). -/
def Obligations.SerialValuesCountAround : Prop :=
  ∀ (s : SerialSpec) (copy : Nat), s.start < 10 ^ s.digits →
    s.valueOf copy < 10 ^ s.digits ∧ s.valueOf 1 = s.start
    ∧ (1 ≤ copy → ((s.valueOf (copy + 1) : Int) - s.valueOf copy - s.step) % (10 ^ s.digits : Nat) = 0)
    ∧ s.valueAfter copy = s.valueOf (copy + 1)

/-- The shift search chooses, of the candidates that it may choose, one of least score, and the score it
reports is that candidate's: shift 0 may always be chosen, a nonzero shift within Max Shift only when the
symbol with its quiet zones stays within the label area (R85 to R88). -/
def Obligations.ShiftSearchFindsLeastScore : Prop :=
  ∀ (g : CopyGeometry) (bad : Dots) (bars : List Span) (extent : Span) (maxShift : Nat),
    let choice := shiftSearch g bad bars extent maxShift
    let allowed := fun s : Int => s = 0 ∨ (s.natAbs ≤ maxShift ∧ shiftSkipped g extent s = false)
    choice.2 = shiftScore g bad bars choice.1 ∧ allowed choice.1
    ∧ (∀ s, allowed s → choice.2 ≤ shiftScore g bad bars s)
    ∧ ∀ s, allowed s → shiftScore g bad bars s = choice.2 →
        choice.1.natAbs < s.natAbs ∨ (choice.1.natAbs = s.natAbs ∧ s ≤ choice.1)

/-! ## Burning -/

/-- LINE_TAKE: with the register empty and the head link HELD, the oldest line of the Line Store enters the
register as SHIFTING for 32 µs; a line held in WAIT_ROOM that is not its copy's LAST is then appended and the
Composer goes on (R108, R67). -/
def Obligations.LineTakeMovesOldestLine : Prop :=
  ∀ (s : State) (r : LineRecord) (store : List LineRecord), s.resetPin = false →
    s.chip.burn.register = none → s.chip.burn.link = .held → s.chip.composer.store = r :: store →
    s.chip.portInReach = true → (∀ line, s.chip.composer.work = .hold line → line.last = false) →
    ∃ p, exec .lineTake s = .next { s with chip := { s.chip with
        burn := { s.chip.burn with register := some (r, .shifting (s.chip.now + 32)) }
        composer := match s.chip.composer.work with
          | .hold line =>
            { s.chip.composer with
              state := .composing, store := store ++ [line], work := .ready, nextLine := line.line + 1 }
          | _ => { s.chip.composer with store := store }
        port := p } }
      ∧ ∀ k, p.asked k = s.chip.asked k

/-- SHIFT_COMPLETE makes the record in the register SHIFTED; BURN_PHASE_END moves a burn to its next phase of
nonzero time, keeping the groups and the classes (R108, R118). The clock's advance to the due moment is the
model's choice, log entry 4. -/
def Obligations.ShiftAndPhaseEnds : Prop :=
  (∀ (s : State) (r : LineRecord) (at0 : Nat), s.resetPin = false →
    s.chip.burn.register = some (r, .shifting at0) →
    exec .shiftComplete s = .next { s with chip := { s.chip with
      now := max s.chip.now at0, burn := { s.chip.burn with register := some (r, .shifted) } } })
  ∧ ∀ (s : State) (plan : BurnPlan) (q : BurnPhase) (left : List BurnPhase), s.resetPin = false →
    s.chip.burn.plan = some plan → plan.left = q :: left →
    exec .burnPhaseEnd s = .next { s with chip := { s.chip with
      now := max s.chip.now plan.phaseEnd
      burn := { s.chip.burn with
        plan := some { plan with now := q, phaseEnd := plan.phaseEnd + q.time, left := left } } } }

/-- BURN_END of a line that is not LAST, with a line in the register: the burn is over and the history rows
move on (R120). The clock's advance to the end of every phase is the model's choice, log entries 4 and 11. -/
def Obligations.BurnEndMovesHistory : Prop :=
  ∀ (s : State) (plan : BurnPlan) (r : LineRecord), s.resetPin = false → s.chip.burn.plan = some plan →
    s.chip.burn.latched = some r → r.last = false → s.chip.burn.register ≠ none →
    s.chip.portInReach = true →
    ∃ p, exec .burnEnd s = .next { s with chip := { s.chip with
        now := max s.chip.now (plan.phaseEnd + (plan.left.map (·.time)).sum)
        burn := { s.chip.burn with
          plan := none, rowBefore := s.chip.burn.previousRow, previousRow := r.dots }
        port := p } }
      ∧ ∀ k, p.asked k = s.chip.asked k

/-- BURN_END of a copy's LAST line, in RUNNING with copies left and Presentation NONE: the copy completes, its
signature is recorded as Last Signature, and for copy 1 also as First Signature, the copy in hand moves on by
one and the job state is READY (R120, R122, R33, R34). The clock's advance to the end of every phase is the
model's choice, log entries 4 and 11. -/
def Obligations.LastBurnCompletesCopy : Prop :=
  ∀ (s : State) (plan : BurnPlan) (r : LineRecord) (t : Ticket), s.resetPin = false →
    s.chip.burn.plan = some plan → s.chip.burn.latched = some r → r.last = true →
    s.chip.job.current = some t → s.chip.job.result.copiesCompleted + 1 ≠ t.copies →
    s.chip.engine.state = .running → s.chip.motion.operation = .none →
    s.chip.motion.values.presentation = .none → s.chip.portInReach = true →
    ∃ p, exec .burnEnd s = .next { s with chip := { s.chip with
        now := max s.chip.now (plan.phaseEnd + (plan.left.map (·.time)).sum)
        burn := { s.chip.burn with
          plan := none, rowBefore := s.chip.burn.previousRow, previousRow := r.dots }
        job := { s.chip.job with
          jobState := .ready
          copyInHand := s.chip.job.copyInHand + 1
          result := { s.chip.job.result with
            copiesCompleted := s.chip.job.result.copiesCompleted + 1
            lastSignature := 256 * s.chip.burn.runningTotal + s.chip.burn.byteSum
            firstSignature :=
              if s.chip.job.copyInHand = 1 then 256 * s.chip.burn.runningTotal + s.chip.burn.byteSum
              else s.chip.job.result.firstSignature } }
        port := p } }
      ∧ ∀ k, p.asked k = s.chip.asked k

/-- HEAD_LINK_GRANT: with no burn and no shift in hand a request for the head link is granted: the link is
LENT, a SHIFTED record becomes UNSHIFTED, and the history is cleared (R125). -/
def Obligations.HeadLinkGrantLends : Prop :=
  ∀ s : State, s.resetPin = false → s.chip.burn.linkRequested = true → s.chip.burn.link = .held →
    s.chip.burn.plan = none → (∀ r at0, s.chip.burn.register ≠ some (r, .shifting at0)) →
    exec .headLinkGrant s = .next { s with chip := { s.chip with
      burn := { s.chip.burn with
        link := .lent, linkRequested := false, previousRow := 0, rowBefore := 0, lastLineStart := none
        register := s.chip.burn.register.map fun r => (r.1, .unshifted) } } }

/-- The darkened time T1 (R113): the floor of Nominal Burn times 128 + 4 (d - 15) over 128, with its
multiplier 68, 128 and 188 at darkness 0, 15 and 30, 4 more at each darkness step, and T1 from 26 to 5875 µs. -/
def Obligations.DarkenedTimeFollowsDarkness : Prop :=
  (∀ n d : Nat, (darkenedTime n d : Int) = (n : Int) * (128 + 4 * ((d : Int) - 15)) / 128)
  ∧ (∀ n : Nat, darkenedTime n 0 = n * 68 / 128 ∧ darkenedTime n 15 = n * 128 / 128
      ∧ darkenedTime n 30 = n * 188 / 128)
  ∧ (∀ n d : Nat, ∃ m : Nat, darkenedTime n d = n * m / 128 ∧ darkenedTime n (d + 1) = n * (m + 4) / 128)
  ∧ darkenedTime 50 0 = 26 ∧ darkenedTime 4000 30 = 5875
  ∧ ∀ n d : Nat, 50 ≤ n → n ≤ 4000 → d ≤ 30 → 26 ≤ darkenedTime n d ∧ darkenedTime n d ≤ 5875

/-- The interpolated heat factor lies between the two entries it stands between (R114). With non-increasing
History Factors of at most 256 and a line period of at least 250 µs, the burn time T lies from 20 µs to
P - 10 µs, and no dot of a group is on for longer than T: the four phase times add up to at most T (R115,
R116). -/
def Obligations.BurnTimesKeepBounds : Prop :=
  (∀ (table : List Nat) (code : Nat),
    let lo := table.getD (code / 64) 0
    let hi := table.getD (code / 64 + 1) 0
    min lo hi ≤ heatFactor table code ∧ heatFactor table code ≤ max lo hi)
  ∧ ∀ (v : BurnValues) (darkness code period : Nat), 250 ≤ period →
    (∀ k, v.historyFactors.getD k 0 ≤ 256) →
    (∀ k, v.historyFactors.getD (k + 1) 0 ≤ v.historyFactors.getD k 0) →
    let t := v.burnTime darkness code period
    20 ≤ t ∧ t ≤ period - 10 ∧ (phaseTimes v.historyFactors t).sum ≤ t

/-- The burn groups of a line hold its four segments in order, each once, and each group holds at least one;
each group's count is the set dots of its segments, segment k holding dots 320 k to 320 k + 319; a segment
joins the open group whenever the count stays within the Power Budget, so the first segment of the next group
would have brought each group above it; and with a Power Budget of at least 320 no group's count exceeds it
(R117). -/
def Obligations.BurnGroupsKeepPowerBudget : Prop :=
  ∀ (budget : Nat) (dots : Dots), 320 ≤ budget →
    let groups := burnGroups budget dots
    let setDots := fun k => ((List.range 320).filter fun i => hasDot dots (320 * k + i)).length
    groups.flatMap (·.segments) = [0, 1, 2, 3] ∧ 1 ≤ groups.length ∧ groups.length ≤ 4
    ∧ (∀ g ∈ groups, g.segments ≠ [] ∧ g.count = (g.segments.map setDots).sum ∧ g.count ≤ budget)
    ∧ ∀ k g h, groups[k]? = some g → groups[k + 1]? = some h → ∀ first, h.segments.head? = some first →
        budget < g.count + setDots first

/-! ## Media motion -/

/-- PERIOD_TIMER_EXPIRY: with no operation in hand a FORWARD Motion comes to STILL; with a burn in progress
and a step of the operation remaining, the stretch mark is set and one burn stretch is counted for the current
ticket, and Motion stays FORWARD (R130, R132). The clock's advance to the due moment is the model's choice, log
entry 4. -/
def Obligations.PeriodExpiryStopsOrStretches : Prop :=
  ∀ (s : State) (period at0 : Nat), s.resetPin = false → s.chip.motion.timer = .running period at0 →
    s.chip.motion.state = .forward →
    (s.chip.motion.operation = .none →
      exec .periodTimerExpiry s = .next { s with chip := { s.chip with
        now := max s.chip.now at0
        motion := { s.chip.motion with
          state := .still, timer := .stopped, speedStep := 0, rampCount := 0, stretchMark := false } } })
    ∧ (s.chip.burn.plan ≠ none → s.chip.motion.operation.wantsForward = true →
      exec .periodTimerExpiry s = .next { s with chip := { s.chip with
        now := max s.chip.now at0
        motion := { s.chip.motion with timer := .expired, stretchMark := true }
        job := { s.chip.job with result :=
          if s.chip.job.current = none then s.chip.job.result
          else { s.chip.job.result with burnStretches := min 255 (s.chip.job.result.burnStretches + 1) } } } })

/-- FORWARD_STEP: a line feed's step from STILL, not its last, moves the media one line on at speed step 0,
starts the period timer, sends a MEDIA request for the position reached, and leaves one line fewer to feed
(R131, R143, R152). The motor phase as a count of steps is the model's form, log entry 38. -/
def Obligations.LineFeedStepsOnFromStill : Prop :=
  ∀ (s : State) (left : Nat) (d : Nat), s.resetPin = false → s.chip.motion.operation = .lineFeed left →
    2 ≤ left → s.chip.motion.state = .still → s.chip.burn.plan = none → s.chip.protection.gate = .opened →
    s.chip.scanner.converter = .converting .therm d → s.chip.portInReach = true →
    let period := s.chip.motion.values.speedTable.getD 0 250
    ∃ p, exec .forwardStep s = .next { s with chip := { s.chip with
        motion := { s.chip.motion with
          state := .forward, phase := s.chip.motion.phase + 1
          position := s.chip.motion.position + 1, speedStep := 0, rampCount := 0
          timer := .running period (s.chip.now + period), operation := .lineFeed (left - 1) }
        scanner := { s.chip.scanner with
          converter := .converting (.media (s.chip.motion.position + 1) false) (s.chip.now + 10) }
        port := p } }
      ∧ ∀ k, p.asked k = s.chip.asked k

/-- FORWARD_STEP: a line step of a print operation, its timer expired, the register SHIFTED, and Print Method
DIRECT, is a line start. The record is latched; both history rows are cleared when there is no last line start or
it lies more than History Expiry back (R111); the signature sums take the line's 160 bytes, from 0 at a FIRST
line (R121); the burn time is found from the darkness, the THERM code and the line period of the settled speed
step (R115), and the phase times from it (R116); the burn begins with the first phase that has a time, or, when
no phase has one, ends at once and moves the history on (R118, R120); and a line split into groups is counted
(R131, R109, R119). The pace rule settles the step (R134): a stretch or a low store slows by one step and clears the
mark; a step above the target slows; a full enough store below the target counts the ramp and speeds up when it is
full; and otherwise the step holds, so it never passes its target from below. The motor phase as a count of steps is
the model's form, log entry 38, and that a ramp count already at or beyond Ramp Lines speeds up at once is its choice,
log entry 57. -/
def Obligations.LineStepIsPacedAndStartsBurn : Prop :=
  (∀ (s : State) (next last : Nat) (r : LineRecord) (d : Nat), s.resetPin = false →
    s.chip.motion.operation = .print next last → next < last → s.chip.motion.state = .forward →
    s.chip.motion.timer = .expired → s.chip.burn.plan = none → s.chip.protection.gate = .opened →
    s.chip.burn.register = some (r, .shifted) → s.chip.scanner.values.printMethod = .direct →
    s.chip.scanner.converter = .converting .therm d → s.chip.portInReach = true →
    let paced := s.chip.motion.paceLine s.chip.composer.store.length
    let period := s.chip.motion.values.speedTable.getD paced.speedStep 250
    let b := s.chip.burn
    let keeps := match b.lastLineStart with
      | none => false
      | some at0 => decide (s.chip.now - at0 ≤ 1000 * b.values.historyExpiry)
    let previous := if keeps then b.previousRow else 0
    let before := if keeps then b.rowBefore else 0
    let byteOf := fun k => ((List.range 8).map fun j => if hasDot r.dots (8 * k + j) then 2 ^ (7 - j) else 0).sum
    let sums : Nat × Nat := (List.range 160).foldl
      (fun x k => ((x.1 + byteOf k) % 255, (x.2 + (x.1 + byteOf k) % 255) % 255))
      (if r.first then (0, 0) else (b.byteSum, b.runningTotal))
    let time := max 20 (min (period - 10)
      (darkenedTime b.values.nominalBurn b.darkness
        * heatFactor b.values.heatTable s.chip.scanner.therm.toNat / 256))
    let f := fun k => b.values.historyFactors.getD k 0
    let times := [time * (f 0 - f 1) / 256, time * (f 1 - f 2) / 256, time * (f 2 - f 3) / 256, time * f 3 / 256]
    let groups := burnGroups b.values.powerBudget r.dots
    let phases : List BurnPhase := (List.range groups.length).flatMap fun g =>
      ((List.range 4).filter fun k => decide (times.getD k 0 ≠ 0)).map fun k =>
        { group := g, phase := k, time := times.getD k 0 }
    let latched := { b with
      register := none, latched := some r, lastCopy := r.copy, lastLine := r.line
      previousRow := previous, rowBefore := before, lastLineStart := some s.chip.now
      byteSum := sums.1, runningTotal := sums.2 }
    let burnAfter := match phases with
      | [] => { latched with previousRow := r.dots, rowBefore := previous }
      | q :: left => { latched with plan := some {
          burnTime := time, phases := times, groups := groups, previous := previous, before := before
          now := q, phaseEnd := s.chip.now + q.time, left := left } }
    (phases = [] → r.last = false) →
    ∃ p, exec .forwardStep s = .next { s with chip := { s.chip with
        motion := { s.chip.motion with
          phase := s.chip.motion.phase + 1
          position := s.chip.motion.position + 1
          speedStep := paced.speedStep, rampCount := paced.rampCount, stretchMark := paced.stretchMark
          timer := .running period (s.chip.now + period), operation := .print (next + 1) last }
        scanner := { s.chip.scanner with
          converter := .converting (.media (s.chip.motion.position + 1) false) (s.chip.now + 10) }
        burn := burnAfter
        job := { s.chip.job with result :=
          if s.chip.job.current ≠ none ∧ 1 < groups.length then
            { s.chip.job.result with splitLines := min 255 (s.chip.job.result.splitLines + 1) }
          else s.chip.job.result }
        port := p } }
      ∧ ∀ k, p.asked k = s.chip.asked k)
  ∧ ∀ (m : MotionController) (level : Nat),
    let q := m.paceLine level
    (m.stretchMark = true ∨ level < 8 →
      q = { m with speedStep := m.speedStep - 1, rampCount := 0, stretchMark := false })
    ∧ (m.stretchMark = false → 8 ≤ level → m.values.target < m.speedStep →
      q = { m with speedStep := m.speedStep - 1, rampCount := 0 })
    ∧ (m.stretchMark = false → 16 ≤ level → m.speedStep < m.values.target →
      q = if m.values.rampLines ≤ m.rampCount + 1 then { m with speedStep := m.speedStep + 1, rampCount := 0 }
        else { m with rampCount := m.rampCount + 1 })
    ∧ (m.stretchMark = false → 8 ≤ level → level < 16 → m.speedStep ≤ m.values.target → q = m)
    ∧ (m.stretchMark = false → 8 ≤ level → m.speedStep = m.values.target → q = m)
    ∧ (m.speedStep ≤ m.values.target → q.speedStep ≤ m.values.target)

/-- REVERSE_STEP: a backfeed's step, from STILL or once the timer has expired, moves the media and the
presented lines one back at speed step 0 and the period of Speed Table entry 0; the first one clears the gap run
(R141, R135). The motor phase as a count of steps is the model's form, log entry 38. -/
def Obligations.ReverseStepDrawsBack : Prop :=
  ∀ s : State, s.resetPin = false → s.chip.motion.operation.isBack = true →
    0 < s.chip.motion.presentedLines → s.chip.protection.gate = .opened →
    (s.chip.motion.state = .still ∨ (s.chip.motion.state = .reverse ∧ s.chip.motion.timer = .expired)) →
    let period := s.chip.motion.values.speedTable.getD 0 250
    exec .reverseStep s = .next { s with chip := { s.chip with
      motion := { s.chip.motion with
        state := .reverse, phase := s.chip.motion.phase - 1, position := s.chip.motion.position - 1
        presentedLines := s.chip.motion.presentedLines - 1, speedStep := 0
        gapRun := if s.chip.motion.state = .still then 0 else s.chip.motion.gapRun
        timer := .running period (s.chip.now + period) } } }

/-! ## The Sensor Scanner -/

/-- CONVERSION_COMPLETE of THERM with limits held, a code below Trip Limit and no request waiting: the code is
kept, SUPPLY is converted next, and the thermal state is judged, HOLD being raised on the entry to HOLD (R149
to R151, R168). The clock's advance to the due moment is the model's choice, log entry 4. -/
def Obligations.ThermCodeJudgesHold : Prop :=
  ∀ (s : State) (code : Code) (d : Nat) (l : ProtectionLimits), s.resetPin = false →
    s.chip.scanner.converter = .converting .therm d → s.chip.scanner.waiting = [] →
    s.chip.protection.limits = some l → code.toNat < l.trip → s.chip.portInReach = true →
    let at0 := max s.chip.now d
    let enters := s.chip.protection.thermal = .normal ∧ l.hold ≤ code.toNat
    let leaves := s.chip.protection.thermal = .hold ∧ code.toNat ≤ l.resume
    ∃ p, exec (.conversionComplete code) s = .next { s with chip := { s.chip with
        now := at0
        scanner := { s.chip.scanner with
          therm := code, rotation := .supply, converter := .converting .supply (at0 + 10) }
        protection := { s.chip.protection with
          thermal := if enters then .hold else if leaves then .normal else s.chip.protection.thermal }
        engine := { s.chip.engine with
          pendingBits := if enters then s.chip.engine.pendingBits ||| 0x10#7 else s.chip.engine.pendingBits }
        port := p } }
      ∧ ∀ k, p.asked k = s.chip.asked k

/-- CONVERSION_COMPLETE of SUPPLY: the second code in a row below Supply Low, with the supply ON in RUNNING and
no cause held, trips SUPPLY_LOW: the latch is set, the supply is OFF, the gate CLOSED, Motion stops, and the
engine halts on that cause, its Fault Record to be written (R166, R165, R162, R163, R146, R178). The model's is what
the halt leaves asked for: of Engine Control's accesses, log entries 14, 17, 31 and 47 (a dot test whose start is in
hand: its settings load is withdrawn, its outcome written); of the Job Controller's, log entries 52, 53 and 56. -/
def Obligations.SecondLowSupplyCodeTrips : Prop :=
  ∀ (s : State) (code : Code) (d : Nat) (l : ProtectionLimits), s.resetPin = false →
    s.chip.scanner.converter = .converting .supply d → s.chip.protection.limits = some l →
    s.chip.protection.supply = .on → s.chip.protection.lowRun = 1 → code.toNat < l.supplyLow →
    s.chip.engine.state = .running → s.chip.engine.firstCause = none →
    s.chip.portInReach = true → s.chip.engine.areaInReach = true →
    ∃ t, exec (.conversionComplete code) s = .next t
      ∧ t.chip.engine.state = .halted ∧ t.chip.engine.haltedFrom = some .running
      ∧ t.chip.engine.firstCause = some .supplyLow ∧ t.chip.engine.isPending .halt = true
      ∧ t.chip.protection.tripLatch = true ∧ t.chip.protection.supply = .off
      ∧ t.chip.protection.gate = .closed ∧ t.chip.protection.lowRun = 0
      ∧ t.chip.motion.state = .still ∧ t.chip.motion.operation = .none
      ∧ t.chip.motion.position = s.chip.motion.position
      ∧ t.chip.scanner.supply = code ∧ t.chip.burn.plan = none ∧ t.chip.burn.register = none
      ∧ t.memory = s.memory
      ∧ t.chip.asked .job = (s.chip.asked .job).filter (fun a => !a.purpose.endsAtHalt)
      ∧ t.chip.asked .composer = [] ∧ t.chip.asked .engine = s.chip.engineAskedAtHalt

/-- Classification of a sample (R155): with no candidate, a sample on the side of the present state or in the
band changes nothing and one on another side becomes the candidate; a second sample on the candidate's side
confirms it, and a change from GAP to LABEL is a top edge at the candidate's position; any other sample drops
the candidate, and becomes one itself on a side other than the present state. -/
def Obligations.SamplesConfirmInPairs : Prop :=
  ∀ (sc : SensorScanner) (value : Nat) (position : Position),
    let r := sc.classify value position
    let fresh := match sc.sideOf value with
      | none => none
      | some d => if d.state = sc.mediaState then none else some (d, position)
    (sc.candidate = none → r = ({ sc with candidate := fresh }, none))
    ∧ ∀ d at0, sc.candidate = some (d, at0) →
        (sc.sideOf value = some d → r = ({ sc with mediaState := d.state, candidate := none },
          if sc.mediaState = .gap ∧ d = .label then some at0 else none))
        ∧ (sc.sideOf value ≠ some d → r = ({ sc with candidate := fresh }, none))

/-- CONVERSION_COMPLETE of MEDIA: a sample that confirms LABEL after GAP, with Motion at rest, appends its
candidate's position to the Edge Queue while there is room, makes it the last edge, measures the pitch from
the edge before it, and clears the gap run; the pitch joins the result of a ticket that is current (R155, R136,
R145, R35). That a CALIBRATE ticket at work keeps its own and takes only its edge search's pitch (R38) is the
model's reading, log entry 21. The clock's advance to the due moment is the model's choice, log entry 4. -/
def Obligations.TopEdgeJoinsQueue : Prop :=
  ∀ (s : State) (code : Code) (d : Nat) (position at0 edge : Position), s.resetPin = false →
    s.chip.scanner.converter = .converting (.media position false) d → s.chip.scanner.waiting = [] →
    s.chip.scanner.mediaState = .gap → s.chip.scanner.candidate = some (.label, at0) →
    s.chip.scanner.sideOf (s.chip.scanner.values.sampleValue code) = some .label →
    s.chip.motion.lastEdge = some edge → isAfter at0 (edge + 2) = true →
    s.chip.motion.edgeQueue.length < 8 → s.chip.motion.operation = .none →
    s.chip.motion.timer = .stopped → s.chip.portInReach = true →
    let pitch := min 65535 (at0 - edge).toNat
    let now := max s.chip.now d
    ∃ p, exec (.conversionComplete code) s = .next { s with chip := { s.chip with
        now := now
        scanner := { s.chip.scanner with
          media := code, mediaState := .label, candidate := none
          converter := .converting s.chip.scanner.rotation.conversion (now + 10) }
        motion := { s.chip.motion with
          edgeQueue := s.chip.motion.edgeQueue ++ [at0], lastEdge := some at0, measuredPitch := pitch
          gapRun := 0 }
        job := { s.chip.job with result :=
          if s.chip.job.current = none ∨ s.chip.job.jobState = .calibrating then s.chip.job.result
          else { s.chip.job.result with measuredPitch := pitch } }
        port := p } }
      ∧ ∀ k, p.asked k = s.chip.asked k

/-- A print start is its edge's position plus Sensor Offset plus Top Adjust, modulo 2^32, and the target found
is the first queued print start that lies ahead: every entry removed before it is passed (R137, R129). -/
def Obligations.TargetIsFirstPrintStartAhead : Prop :=
  ∀ m : MotionController,
    (∀ e, m.printStart e = e + BitVec.ofNat 32 m.values.sensorOffset + BitVec.ofInt 32 m.values.topAdjust)
    ∧ (∀ a b : Position, isAfter a b = true ↔ 0 < (a - b).toNat ∧ (a - b).toNat < 2 ^ 31)
    ∧ ∃ passed, m.edgeQueue = passed ++ m.seek.1.edgeQueue
        ∧ (∀ e ∈ passed, isAfter (m.printStart e) m.position = false)
        ∧ m.seek.2 = m.seek.1.edgeQueue.head?.map m.printStart
        ∧ (∀ e, m.seek.1.edgeQueue.head? = some e → isAfter (m.printStart e) m.position = true)
        ∧ m.seek.1 = { m with edgeQueue := m.seek.1.edgeQueue }

/-- ENCODER_TRANSITION: a change of one phase counts +1 forward in the cycle low-low, low-high, high-high,
high-low and -1 backward, the count standing within -32768 and 32767; a change of both phases counts nothing
and adds one glitch for the current ticket; the new levels are kept (R158). -/
def Obligations.EncoderCountsTransitions : Prop :=
  ∀ (s : State) (a b : Bool), s.resetPin = false →
    let f := s.chip.scanner.phaseFirst
    let g := s.chip.scanner.phaseSecond
    let forward := (f, g, a, b) ∈
      [(false, false, false, true), (false, true, true, true), (true, true, true, false),
        (true, false, false, false)]
    (((f ≠ a ∧ g = b) ∨ (f = a ∧ g ≠ b)) →
      exec (.encoderTransition a b) s = .next { s with chip := { s.chip with
        scanner := { s.chip.scanner with
          phaseFirst := a, phaseSecond := b
          ribbonCount := max (-32768) (min 32767
            (s.chip.scanner.ribbonCount + if forward then 1 else -1)) } } })
    ∧ (f ≠ a → g ≠ b →
      exec (.encoderTransition a b) s = .next { s with chip := { s.chip with
        scanner := { s.chip.scanner with phaseFirst := a, phaseSecond := b }
        job := { s.chip.job with result :=
          if s.chip.job.current = none then s.chip.job.result
          else { s.chip.job.result with
            ribbonGlitches := min 255 (s.chip.job.result.ribbonGlitches + 1) } } } })

/-- SWITCH_INPUT_CHANGE only starts the debounce time of its input afresh. TAKEN_DEBOUNCED then gives the
debounced state the raw level, and NO LABEL ends an AWAIT_TAKE, in READY with a ticket current and in DRY
otherwise, where CHAIN_DRY is raised if the last look read a zero link (R160, R142, R30, R23). The model's own
readings: the raw levels follow while the reset pin is asserted (log entry 7), AWAIT_TAKE ends in HALTED too (log
entry 16), the mark of the last look's zero link (log entry 37), and the clock's advance to the due moment (log
entry 4). -/
def Obligations.SwitchInputsAreDebounced : Prop :=
  (∀ (s : State) (level : Bool),
    let follow := fun i : SwitchInput => if i.raw = level then i else { i with raw := level, since := s.chip.now }
    exec (.switchInputChange .headClosed level) s = .next { s with chip := { s.chip with
      scanner := { s.chip.scanner with headClosed := follow s.chip.scanner.headClosed } } }
    ∧ exec (.switchInputChange .taken level) s = .next { s with chip := { s.chip with
      scanner := { s.chip.scanner with taken := follow s.chip.scanner.taken } } })
  ∧ ∀ s : State, s.resetPin = false → s.chip.scanner.taken.raw ≠ s.chip.scanner.taken.debounced →
      let left := s.chip.scanner.taken.raw = false ∧ s.chip.job.jobState = .awaitTake
      let dry := left ∧ s.chip.job.current = none ∧ s.chip.waits = true ∧ s.chip.job.lastLookZero = true
        ∧ s.chip.job.dryMark = false
      exec .takenDebounced s = .next { s with chip := { s.chip with
        now := max s.chip.now (s.chip.scanner.taken.since + 20000)
        engine := { s.chip.engine with
          pendingBits := if dry then s.chip.engine.pendingBits ||| 0x02#7 else s.chip.engine.pendingBits }
        scanner := { s.chip.scanner with
          taken := { s.chip.scanner.taken with debounced := s.chip.scanner.taken.raw } }
        job := { s.chip.job with
          jobState :=
            if left then (if s.chip.job.current = none then .dry else .ready) else s.chip.job.jobState
          dryMark := if dry then true else s.chip.job.dryMark } } }

/-! ## The Protection Unit -/

/-- HEAD_CLOSED_DEBOUNCED to OPEN in RUNNING with no cause held: HEAD_OPEN is tripped, the supply is OFF, the
gate CLOSED and the engine halts. To CLOSED in RUNNING with the latch clear and the supply OFF: the supply
begins its 5 ms settle; SUPPLY_SETTLED then puts it ON and opens the gate. While the gate is CLOSED the motor
phases are driven off and the phase last driven is kept; once it is OPEN they drive it (R160, R162, R163, R165,
R178). The clock's advance to the due moment is the model's choice, log entry 4. The model's too is what the halt
leaves asked for: of Engine Control's accesses, log entries 14, 17, 31 and 47 (a dot test whose start is in hand: its
settings load is withdrawn, its outcome written); of the Job Controller's, log entries 52, 53 and 56. -/
def Obligations.HeadSwitchTripsAndSettles : Prop :=
  (∀ (s : State) (at0 : Nat), s.resetPin = false → s.chip.protection.supply = .settling at0 →
    ∃ t, exec .supplySettled s = .next t
      ∧ t = { s with chip := { s.chip with
          now := max s.chip.now at0
          protection := { s.chip.protection with supply := .on, gate := .opened } } }
      ∧ t.chip.motorPhases = some s.chip.motion.phase)
  ∧ ∀ s : State, s.resetPin = false → s.chip.engine.state = .running → s.chip.portInReach = true →
    s.chip.engine.areaInReach = true →
    (s.chip.scanner.headClosed.debounced = true → s.chip.scanner.headClosed.raw = false →
      s.chip.engine.firstCause = none →
      ∃ t, exec .headClosedDebounced s = .next t
        ∧ t.chip.scanner.headClosed.debounced = false
        ∧ t.chip.engine.state = .halted ∧ t.chip.engine.firstCause = some .headOpen
        ∧ t.chip.engine.isPending .halt = true ∧ t.chip.protection.tripLatch = true
        ∧ t.chip.protection.supply = .off ∧ t.chip.protection.gate = .closed
        ∧ t.chip.burn.plan = none ∧ t.chip.motion.state = .still
        ∧ t.chip.motorPhases = none ∧ t.chip.motion.phase = s.chip.motion.phase
        ∧ t.chip.composer.state = .suspended
        ∧ t.chip.asked .job = (s.chip.asked .job).filter (fun a => !a.purpose.endsAtHalt)
        ∧ t.chip.asked .composer = [] ∧ t.chip.asked .engine = s.chip.engineAskedAtHalt)
    ∧ (s.chip.scanner.headClosed.debounced = false → s.chip.scanner.headClosed.raw = true →
      s.chip.protection.tripLatch = false → s.chip.protection.supply = .off →
      let now := max s.chip.now (s.chip.scanner.headClosed.since + 5000)
      ∃ p, exec .headClosedDebounced s = .next { s with chip := { s.chip with
          now := now
          scanner := { s.chip.scanner with
            headClosed := { s.chip.scanner.headClosed with debounced := true } }
          protection := { s.chip.protection with supply := .settling (now + 5000) }
          port := p } }
        ∧ ∀ k, p.asked k = s.chip.asked k)

/-- The measurement of a dot: TEST_DOT_START begins the shift of the first dot's line once the gate is OPEN and
the head link LENT; DOT_SHIFT_COMPLETE, with an idle conversion in flight, starts the CURRENT conversion and
the Test Pulse together; and TEST_PULSE_END with the code at hand judges the dot against the limits and shifts
the next one (R170, R171, R152). The clock's advance to the due moment is the model's choice, log entry 4. -/
def Obligations.DotIsMeasured : Prop :=
  ∀ (s : State) (p : TestProgress), s.resetPin = false → s.chip.protection.test = .testing p →
    (p.step = .waiting → s.chip.protection.gate = .opened → s.chip.burn.link = .lent →
      exec .testDotStart s = .next { s with chip := { s.chip with
        protection := { s.chip.protection with
          test := .testing { p with step := .shifting (s.chip.now + 32) } } } })
    ∧ (∀ at0 d, p.step = .shifting at0 →
        (s.chip.scanner.converter = .converting .therm d ∨ s.chip.scanner.converter = .converting .supply d) →
        let now := max s.chip.now at0
        exec .dotShiftComplete s = .next { s with chip := { s.chip with
          now := now
          scanner := { s.chip.scanner with converter := .converting .current (now + 10) }
          protection := { s.chip.protection with
            test := .testing { p with step := .measuring (.on (now + p.pulse)) none } } } })
    ∧ (∀ at0 (code : Code), p.step = .measuring (.on at0) (some code) → p.dot < 1279 →
        s.chip.portInReach = true →
        let now := max s.chip.now at0
        ∃ q set, exec .testPulseEnd s = .next { s with chip := { s.chip with
            now := now
            protection := { s.chip.protection with
              test := .testing { p with dot := p.dot + 1, newSet := set, step := .shifting (now + 32) } }
            port := q } }
          ∧ (∀ k, q.asked k = s.chip.asked k)
          ∧ ∀ k, hasDot set k = (hasDot p.newSet k ||
              (decide (k = p.dot) && (decide (code.toNat < p.currentMin) || decide (p.currentMax < code.toNat)))))

/-- TEST_PULSE_END of dot 1279 in RUNNING with the head closed and the latch clear: the new set replaces the
bad-dot set, the report is PASSED, the head link is HELD again, and the map, the count and the outcome are to
be published in that order (R172, R169, R125). The clock's advance to the due moment is the model's choice, log
entry 4. -/
def Obligations.LastDotEndsTestPassed : Prop :=
  ∀ (s : State) (p : TestProgress) (at0 : Nat) (code : Code), s.resetPin = false →
    s.chip.protection.test = .testing p → p.step = .measuring (.on at0) (some code) → p.dot = 1279 →
    p.currentMin ≤ code.toNat → code.toNat ≤ p.currentMax → s.chip.engine.state = .running →
    s.chip.scanner.headClosed.debounced = true → s.chip.protection.tripLatch = false →
    s.chip.protection.supply = .on → s.chip.burn.register = none →
    s.chip.portInReach = true → s.chip.engine.areaInReach = true →
    ∃ q, exec .testPulseEnd s = .next { s with chip := { s.chip with
        now := max s.chip.now at0
        protection := { s.chip.protection with badDots := p.newSet, test := .idle, report := .passed }
        burn := { s.chip.burn with link := .held, linkRequested := false }
        port := q } }
      ∧ q.asked .engine = s.chip.asked .engine
        ++ [writeAccess .publishMap (.area 0x1B0) (rowBytes p.newSet),
            writeAccess .publishCount (.area 0x008)
              (leBytes 2 ((List.range 1280).filter fun k => hasDot p.newSet k).length),
            writeAccess .publishPassed (.area 0x00A) [1]]
      ∧ q.asked .job = s.chip.asked .job ∧ q.asked .composer = s.chip.asked .composer

/-! ## Settings and tickets -/

/-- An undefined Media Kind is loaded as GAP, an undefined Print Method as DIRECT and an undefined Presentation
as NONE, each the first defined value of its field; the substitution stands in the snapshot that the load
takes, and Engine Control is told of nothing (R6). -/
def Obligations.UndefinedCodesLoadAsFirstValue : Prop :=
  ∀ (block : List Byte) (gen : Word) (c : Chip),
    (2 < field block 0 1 → (settingsOf block).mediaKind = .gap)
    ∧ (1 < field block 1 1 → (settingsOf block).printMethod = .direct)
    ∧ (2 < field block 2 1 → (settingsOf block).presentation = .none)
    ∧ mediaKindOf 0 = .gap ∧ printMethodOf 0 = .direct ∧ presentationOf 0 = .none
    ∧ (c.takeSettings gen block).job.snapshot = some (settingsOf block)
    ∧ (c.takeSettings gen block).engine = c.engine

/-- Whatever the bytes of a Settings Block, the snapshot's values lie within the ranges of Table 1-2 and keep the
relations of R5: falling tables, Resume Limit ≤ Hold Limit ≤ Trip Limit, and Dot Current Min ≤ Max. -/
def Obligations.SnapshotValuesKeepRanges : Prop :=
  ∀ block : List Byte,
    let v := settingsOf block
    v.presentDistance ≤ 1023 ∧ v.sensorOffset ≤ 255 ∧ v.mediaHysteresis ≤ 63
    ∧ 2 ≤ v.maxGapLength ∧ v.maxGapLength ≤ 255 ∧ 64 ≤ v.maxSearch ∧ v.maxSearch ≤ 16383
    ∧ 256 ≤ v.calibrateLength ∧ v.calibrateLength ≤ 4096 ∧ 1 ≤ v.rampLines ∧ v.rampLines ≤ 64
    ∧ v.defaultSpeed ≤ 7 ∧ v.defaultDarkness ≤ 30 ∧ v.supplyLow ≤ 1023
    ∧ 16 ≤ v.ribbonWindow ∧ v.ribbonWindow ≤ 1024 ∧ 1 ≤ v.ribbonMin ∧ v.ribbonMin ≤ 255
    ∧ v.ribbonLowCounts ≤ 1023 ∧ v.lookInterval ≤ 255
    ∧ v.resumeLimit ≤ v.holdLimit ∧ v.holdLimit ≤ v.tripLimit ∧ v.tripLimit ≤ 1023
    ∧ v.dotCurrentMin ≤ v.dotCurrentMax ∧ v.dotCurrentMax ≤ 1023
    ∧ v.speedTable.length = 8 ∧ v.speedTable.Pairwise (fun a b => b ≤ a)
    ∧ (∀ x ∈ v.speedTable, 250 ≤ x ∧ x ≤ 20000)
    ∧ v.historyFactors.length = 4 ∧ v.historyFactors.Pairwise (fun a b => b ≤ a)
    ∧ (∀ x ∈ v.historyFactors, x ≤ 256)
    ∧ v.heatTable.length = 17 ∧ (∀ x ∈ v.heatTable, x ≤ 511)
    ∧ 50 ≤ v.nominalBurn ∧ v.nominalBurn ≤ 4000 ∧ 320 ≤ v.powerBudget ∧ v.powerBudget ≤ 1280
    ∧ 2 ≤ v.testPulse ∧ v.testPulse ≤ 50 ∧ -64 ≤ v.topAdjust ∧ v.topAdjust ≤ 64
    ∧ v.mediaThreshold ≤ 1022 ∧ 1 ≤ v.historyExpiry ∧ v.historyExpiry ≤ 255

/-- A ticket that validation passes has the geometry R26 asks for: its label lies on the head, its copies are
1 to 9999, its Label Length 32 to 8192, it has at most 64 objects and at most 4 SERIAL records, and every
serial start lies within its digits (R10, R13, R26). -/
def Obligations.ValidTicketsKeepBounds : Prop :=
  ∀ (addr : Word) (bytes : List Byte) (t : Ticket), validate addr bytes = .valid t →
    t.addr = addr ∧ t.bytes = bytes
    ∧ 1 ≤ t.copies ∧ t.copies ≤ 9999 ∧ 32 ≤ t.labelLength ∧ t.labelLength ≤ 8192
    ∧ 8 ≤ t.labelWidth ∧ t.leftOffset + t.labelWidth ≤ 1280 ∧ 1 ≤ t.feedCount
    ∧ t.objects.length ≤ 64 ∧ (t.objects.filter (·.isSerial)).length ≤ 4
    ∧ (∀ d, t.darkness = some d → d ≤ 30) ∧ (∀ v, t.speed = some v → v ≤ 7)
    ∧ ∀ o ∈ t.objects, ∀ s, o.body = .serial s → 1 ≤ s.digits ∧ s.digits ≤ 9 ∧ s.start < 10 ^ s.digits
        ∧ -9999 ≤ s.step ∧ s.step ≤ 9999
end

