-- ==== Sys2Proof/Laws/State.lean ====
section
/-! SUPPORT. What each plain update of the part does to each block: one lemma for each field and update, so
that no proof unfolds a record update. -/

namespace Sys2Proof.Machine

open Sys2Proof

/-! ## advanceTo -/

@[simp] theorem Chip.advanceTo_now (c : Chip) (t : Nat) : (c.advanceTo t).now = max c.now t := rfl
@[simp] theorem Chip.advanceTo_engine (c : Chip) (t : Nat) : (c.advanceTo t).engine = c.engine := rfl
@[simp] theorem Chip.advanceTo_port (c : Chip) (t : Nat) : (c.advanceTo t).port = c.port := rfl
@[simp] theorem Chip.advanceTo_job (c : Chip) (t : Nat) : (c.advanceTo t).job = c.job := rfl
@[simp] theorem Chip.advanceTo_composer (c : Chip) (t : Nat) : (c.advanceTo t).composer = c.composer := rfl
@[simp] theorem Chip.advanceTo_burn (c : Chip) (t : Nat) : (c.advanceTo t).burn = c.burn := rfl
@[simp] theorem Chip.advanceTo_motion (c : Chip) (t : Nat) : (c.advanceTo t).motion = c.motion := rfl
@[simp] theorem Chip.advanceTo_scanner (c : Chip) (t : Nat) : (c.advanceTo t).scanner = c.scanner := rfl
@[simp] theorem Chip.advanceTo_protection (c : Chip) (t : Nat) : (c.advanceTo t).protection = c.protection := rfl

/-! ## raise -/

@[simp] theorem Chip.raise_now (c : Chip) (e : Event) : (c.raise e).now = c.now := rfl
@[simp] theorem Chip.raise_engine (c : Chip) (e : Event) : (c.raise e).engine = c.engine.raise e := rfl
@[simp] theorem Chip.raise_port (c : Chip) (e : Event) : (c.raise e).port = c.port := rfl
@[simp] theorem Chip.raise_job (c : Chip) (e : Event) : (c.raise e).job = c.job := rfl
@[simp] theorem Chip.raise_composer (c : Chip) (e : Event) : (c.raise e).composer = c.composer := rfl
@[simp] theorem Chip.raise_burn (c : Chip) (e : Event) : (c.raise e).burn = c.burn := rfl
@[simp] theorem Chip.raise_motion (c : Chip) (e : Event) : (c.raise e).motion = c.motion := rfl
@[simp] theorem Chip.raise_scanner (c : Chip) (e : Event) : (c.raise e).scanner = c.scanner := rfl
@[simp] theorem Chip.raise_protection (c : Chip) (e : Event) : (c.raise e).protection = c.protection := rfl

/-! ## refuse -/

@[simp] theorem Chip.refuse_now (c : Chip) (r : RefusedCommand) : (c.refuse r).now = c.now := rfl
@[simp] theorem Chip.refuse_engine (c : Chip) (r : RefusedCommand) : (c.refuse r).engine = c.engine.refuse r := rfl
@[simp] theorem Chip.refuse_port (c : Chip) (r : RefusedCommand) : (c.refuse r).port = c.port := rfl
@[simp] theorem Chip.refuse_job (c : Chip) (r : RefusedCommand) : (c.refuse r).job = c.job := rfl
@[simp] theorem Chip.refuse_composer (c : Chip) (r : RefusedCommand) : (c.refuse r).composer = c.composer := rfl
@[simp] theorem Chip.refuse_burn (c : Chip) (r : RefusedCommand) : (c.refuse r).burn = c.burn := rfl
@[simp] theorem Chip.refuse_motion (c : Chip) (r : RefusedCommand) : (c.refuse r).motion = c.motion := rfl
@[simp] theorem Chip.refuse_scanner (c : Chip) (r : RefusedCommand) : (c.refuse r).scanner = c.scanner := rfl
@[simp] theorem Chip.refuse_protection (c : Chip) (r : RefusedCommand) : (c.refuse r).protection = c.protection := rfl

/-! ## ask -/

@[simp] theorem Chip.ask_now (c : Chip) (q : Requester) (a : Access) : (c.ask q a).now = c.now := rfl
@[simp] theorem Chip.ask_engine (c : Chip) (q : Requester) (a : Access) : (c.ask q a).engine = c.engine := rfl
@[simp] theorem Chip.ask_port (c : Chip) (q : Requester) (a : Access) : (c.ask q a).port = c.port.setQueue q (c.port.queue q ++ [a]) := rfl
@[simp] theorem Chip.ask_job (c : Chip) (q : Requester) (a : Access) : (c.ask q a).job = c.job := rfl
@[simp] theorem Chip.ask_composer (c : Chip) (q : Requester) (a : Access) : (c.ask q a).composer = c.composer := rfl
@[simp] theorem Chip.ask_burn (c : Chip) (q : Requester) (a : Access) : (c.ask q a).burn = c.burn := rfl
@[simp] theorem Chip.ask_motion (c : Chip) (q : Requester) (a : Access) : (c.ask q a).motion = c.motion := rfl
@[simp] theorem Chip.ask_scanner (c : Chip) (q : Requester) (a : Access) : (c.ask q a).scanner = c.scanner := rfl
@[simp] theorem Chip.ask_protection (c : Chip) (q : Requester) (a : Access) : (c.ask q a).protection = c.protection := rfl

/-! ## withdraw -/

@[simp] theorem Chip.withdraw_now (c : Chip) (q : Requester) (g : Purpose → Bool) : (c.withdraw q g).now = c.now := rfl
@[simp] theorem Chip.withdraw_engine (c : Chip) (q : Requester) (g : Purpose → Bool) : (c.withdraw q g).engine = c.engine := rfl
@[simp] theorem Chip.withdraw_port (c : Chip) (q : Requester) (g : Purpose → Bool) : (c.withdraw q g).port = c.port.withdraw q g := rfl
@[simp] theorem Chip.withdraw_job (c : Chip) (q : Requester) (g : Purpose → Bool) : (c.withdraw q g).job = c.job := rfl
@[simp] theorem Chip.withdraw_composer (c : Chip) (q : Requester) (g : Purpose → Bool) : (c.withdraw q g).composer = c.composer := rfl
@[simp] theorem Chip.withdraw_burn (c : Chip) (q : Requester) (g : Purpose → Bool) : (c.withdraw q g).burn = c.burn := rfl
@[simp] theorem Chip.withdraw_motion (c : Chip) (q : Requester) (g : Purpose → Bool) : (c.withdraw q g).motion = c.motion := rfl
@[simp] theorem Chip.withdraw_scanner (c : Chip) (q : Requester) (g : Purpose → Bool) : (c.withdraw q g).scanner = c.scanner := rfl
@[simp] theorem Chip.withdraw_protection (c : Chip) (q : Requester) (g : Purpose → Bool) : (c.withdraw q g).protection = c.protection := rfl

/-! ## compose -/

@[simp] theorem Chip.compose_now (c : Chip) (w : ComposerWork) : (c.compose w).now = c.now := rfl
@[simp] theorem Chip.compose_engine (c : Chip) (w : ComposerWork) : (c.compose w).engine = c.engine := rfl
@[simp] theorem Chip.compose_port (c : Chip) (w : ComposerWork) : (c.compose w).port = c.port := rfl
@[simp] theorem Chip.compose_job (c : Chip) (w : ComposerWork) : (c.compose w).job = c.job := rfl
@[simp] theorem Chip.compose_composer (c : Chip) (w : ComposerWork) : (c.compose w).composer = { c.composer with work := w } := rfl
@[simp] theorem Chip.compose_burn (c : Chip) (w : ComposerWork) : (c.compose w).burn = c.burn := rfl
@[simp] theorem Chip.compose_motion (c : Chip) (w : ComposerWork) : (c.compose w).motion = c.motion := rfl
@[simp] theorem Chip.compose_scanner (c : Chip) (w : ComposerWork) : (c.compose w).scanner = c.scanner := rfl
@[simp] theorem Chip.compose_protection (c : Chip) (w : ComposerWork) : (c.compose w).protection = c.protection := rfl

/-! ## testStep -/

@[simp] theorem Chip.testStep_now (c : Chip) (p : TestProgress) (x : TestStep) : (c.testStep p x).now = c.now := rfl
@[simp] theorem Chip.testStep_engine (c : Chip) (p : TestProgress) (x : TestStep) : (c.testStep p x).engine = c.engine := rfl
@[simp] theorem Chip.testStep_port (c : Chip) (p : TestProgress) (x : TestStep) : (c.testStep p x).port = c.port := rfl
@[simp] theorem Chip.testStep_job (c : Chip) (p : TestProgress) (x : TestStep) : (c.testStep p x).job = c.job := rfl
@[simp] theorem Chip.testStep_composer (c : Chip) (p : TestProgress) (x : TestStep) : (c.testStep p x).composer = c.composer := rfl
@[simp] theorem Chip.testStep_burn (c : Chip) (p : TestProgress) (x : TestStep) : (c.testStep p x).burn = c.burn := rfl
@[simp] theorem Chip.testStep_motion (c : Chip) (p : TestProgress) (x : TestStep) : (c.testStep p x).motion = c.motion := rfl
@[simp] theorem Chip.testStep_scanner (c : Chip) (p : TestProgress) (x : TestStep) : (c.testStep p x).scanner = c.scanner := rfl
@[simp] theorem Chip.testStep_protection (c : Chip) (p : TestProgress) (x : TestStep) : (c.testStep p x).protection = { c.protection with test := .testing { p with step := x } } := rfl

/-! ## abandonBurn -/

@[simp] theorem Chip.abandonBurn_now (c : Chip) : (c.abandonBurn).now = c.now := rfl
@[simp] theorem Chip.abandonBurn_engine (c : Chip) : (c.abandonBurn).engine = c.engine := rfl
@[simp] theorem Chip.abandonBurn_port (c : Chip) : (c.abandonBurn).port = c.port := rfl
@[simp] theorem Chip.abandonBurn_job (c : Chip) : (c.abandonBurn).job = c.job := rfl
@[simp] theorem Chip.abandonBurn_composer (c : Chip) : (c.abandonBurn).composer = c.composer := rfl
@[simp] theorem Chip.abandonBurn_burn (c : Chip) : (c.abandonBurn).burn = c.burn.abandon.flushRegister := rfl
@[simp] theorem Chip.abandonBurn_motion (c : Chip) : (c.abandonBurn).motion = c.motion := rfl
@[simp] theorem Chip.abandonBurn_scanner (c : Chip) : (c.abandonBurn).scanner = c.scanner := rfl
@[simp] theorem Chip.abandonBurn_protection (c : Chip) : (c.abandonBurn).protection = c.protection := rfl

/-! ## endActivity -/

@[simp] theorem Chip.endActivity_now (c : Chip) : (c.endActivity).now = c.now := rfl
@[simp] theorem Chip.endActivity_engine (c : Chip) : (c.endActivity).engine = c.engine := rfl
@[simp] theorem Chip.endActivity_port (c : Chip) : (c.endActivity).port = c.port := rfl
@[simp] theorem Chip.endActivity_job (c : Chip) : (c.endActivity).job = { c.job with activity := .none } := rfl
@[simp] theorem Chip.endActivity_composer (c : Chip) : (c.endActivity).composer = c.composer := rfl
@[simp] theorem Chip.endActivity_burn (c : Chip) : (c.endActivity).burn = c.burn := rfl
@[simp] theorem Chip.endActivity_motion (c : Chip) : (c.endActivity).motion = c.motion := rfl
@[simp] theorem Chip.endActivity_scanner (c : Chip) : (c.endActivity).scanner = c.scanner := rfl
@[simp] theorem Chip.endActivity_protection (c : Chip) : (c.endActivity).protection = c.protection := rfl

/-! ## emptyBuffer -/

@[simp] theorem Chip.emptyBuffer_now (c : Chip) : (c.emptyBuffer).now = c.now := rfl
@[simp] theorem Chip.emptyBuffer_engine (c : Chip) : (c.emptyBuffer).engine = c.engine := rfl
@[simp] theorem Chip.emptyBuffer_port (c : Chip) : (c.emptyBuffer).port = c.port := rfl
@[simp] theorem Chip.emptyBuffer_job (c : Chip) : (c.emptyBuffer).job = { c.job with nextBuffer := .empty } := rfl
@[simp] theorem Chip.emptyBuffer_composer (c : Chip) : (c.emptyBuffer).composer = c.composer := rfl
@[simp] theorem Chip.emptyBuffer_burn (c : Chip) : (c.emptyBuffer).burn = c.burn := rfl
@[simp] theorem Chip.emptyBuffer_motion (c : Chip) : (c.emptyBuffer).motion = c.motion := rfl
@[simp] theorem Chip.emptyBuffer_scanner (c : Chip) : (c.emptyBuffer).scanner = c.scanner := rfl
@[simp] theorem Chip.emptyBuffer_protection (c : Chip) : (c.emptyBuffer).protection = c.protection := rfl

/-! ## heldFailed -/

@[simp] theorem Chip.heldFailed_now (c : Chip) : (c.heldFailed).now = c.now := rfl
@[simp] theorem Chip.heldFailed_engine (c : Chip) : (c.heldFailed).engine = c.engine := rfl
@[simp] theorem Chip.heldFailed_port (c : Chip) : (c.heldFailed).port = c.port := rfl
@[simp] theorem Chip.heldFailed_job (c : Chip) : (c.heldFailed).job = { c.job with heldWriteFailed := true } := rfl
@[simp] theorem Chip.heldFailed_composer (c : Chip) : (c.heldFailed).composer = c.composer := rfl
@[simp] theorem Chip.heldFailed_burn (c : Chip) : (c.heldFailed).burn = c.burn := rfl
@[simp] theorem Chip.heldFailed_motion (c : Chip) : (c.heldFailed).motion = c.motion := rfl
@[simp] theorem Chip.heldFailed_scanner (c : Chip) : (c.heldFailed).scanner = c.scanner := rfl
@[simp] theorem Chip.heldFailed_protection (c : Chip) : (c.heldFailed).protection = c.protection := rfl

/-! ## startConverter -/

@[simp] theorem Chip.startConverter_now (c : Chip) : (c.startConverter).now = c.now := rfl
@[simp] theorem Chip.startConverter_engine (c : Chip) : (c.startConverter).engine = c.engine := rfl
@[simp] theorem Chip.startConverter_port (c : Chip) : (c.startConverter).port = c.port := rfl
@[simp] theorem Chip.startConverter_job (c : Chip) : (c.startConverter).job = c.job := rfl
@[simp] theorem Chip.startConverter_composer (c : Chip) : (c.startConverter).composer = c.composer := rfl
@[simp] theorem Chip.startConverter_burn (c : Chip) : (c.startConverter).burn = c.burn := rfl
@[simp] theorem Chip.startConverter_motion (c : Chip) : (c.startConverter).motion = c.motion := rfl
@[simp] theorem Chip.startConverter_scanner (c : Chip) : (c.startConverter).scanner = c.scanner.chooseNext c.now := rfl
@[simp] theorem Chip.startConverter_protection (c : Chip) : (c.startConverter).protection = c.protection := rfl

/-- The machine right after reset has started its first conversion, as a reset pin's release does (R149, R161). -/
theorem State.reset_chip :
    State.reset.chip = (Chip.resetWith 0 0 0 0 false false false false).startConverter := rfl

/-! ## Queues of the Memory Port -/

@[simp] theorem MemoryPort.queue_setQueue (p : MemoryPort) (q : Requester) (as : List Access) :
    (p.setQueue q as).queue q = as := by cases q <;> rfl

theorem MemoryPort.queue_setQueue_ne (p : MemoryPort) (q r : Requester) (as : List Access) (h : r ≠ q) :
    (p.setQueue q as).queue r = p.queue r := by cases q <;> cases r <;> first | rfl | exact absurd rfl h

@[simp] theorem MemoryPort.setQueue_inFlight (p : MemoryPort) (q : Requester) (as : List Access) :
    (p.setQueue q as).inFlight = p.inFlight := by cases q <;> rfl

@[simp] theorem MemoryPort.setQueue_lastServed (p : MemoryPort) (q : Requester) (as : List Access) :
    (p.setQueue q as).lastServed = p.lastServed := by cases q <;> rfl

@[simp] theorem MemoryPort.setQueue_queue (p : MemoryPort) (q : Requester) : p.setQueue q (p.queue q) = p := by
  cases q <;> rfl

/-! ## EVENTS and the refusals -/

@[simp] theorem EngineControl.raise_state (e : EngineControl) (v : Event) : (e.raise v).state = e.state := rfl
@[simp] theorem EngineControl.raise_area (e : EngineControl) (v : Event) : (e.raise v).area = e.area := rfl
@[simp] theorem EngineControl.raise_areaInUse (e : EngineControl) (v : Event) : (e.raise v).areaInUse = e.areaInUse := rfl
@[simp] theorem EngineControl.raise_firstCause (e : EngineControl) (v : Event) : (e.raise v).firstCause = e.firstCause := rfl
@[simp] theorem EngineControl.raise_further (e : EngineControl) (v : Event) : (e.raise v).further = e.further := rfl
@[simp] theorem EngineControl.raise_capture (e : EngineControl) (v : Event) : (e.raise v).capture = e.capture := rfl
@[simp] theorem EngineControl.raise_haltedFrom (e : EngineControl) (v : Event) : (e.raise v).haltedFrom = e.haltedFrom := rfl
@[simp] theorem EngineControl.raise_stopWaiting (e : EngineControl) (v : Event) : (e.raise v).stopWaiting = e.stopWaiting := rfl
@[simp] theorem EngineControl.raise_enableBits (e : EngineControl) (v : Event) : (e.raise v).enableBits = e.enableBits := rfl
@[simp] theorem EngineControl.raise_lastRefused (e : EngineControl) (v : Event) : (e.raise v).lastRefused = e.lastRefused := rfl
@[simp] theorem EngineControl.refuse_state (e : EngineControl) (r : RefusedCommand) : (e.refuse r).state = e.state := rfl
@[simp] theorem EngineControl.refuse_area (e : EngineControl) (r : RefusedCommand) : (e.refuse r).area = e.area := rfl
@[simp] theorem EngineControl.refuse_lastRefused (e : EngineControl) (r : RefusedCommand) : (e.refuse r).lastRefused = r := rfl

/-! ## Motion at rest -/

@[simp] theorem MotionController.still_state (m : MotionController) : m.still.state = .still := rfl
@[simp] theorem MotionController.still_operation (m : MotionController) : m.still.operation = m.operation := rfl
@[simp] theorem MotionController.still_phase (m : MotionController) : m.still.phase = m.phase := rfl
@[simp] theorem MotionController.still_position (m : MotionController) : m.still.position = m.position := rfl
@[simp] theorem MotionController.still_speedStep (m : MotionController) : m.still.speedStep = 0 := rfl
@[simp] theorem MotionController.still_rampCount (m : MotionController) : m.still.rampCount = 0 := rfl
@[simp] theorem MotionController.still_timer (m : MotionController) : m.still.timer = .stopped := rfl
@[simp] theorem MotionController.still_stretchMark (m : MotionController) : m.still.stretchMark = false := rfl
@[simp] theorem MotionController.still_edgeQueue (m : MotionController) : m.still.edgeQueue = m.edgeQueue := rfl
@[simp] theorem MotionController.still_lastEdge (m : MotionController) : m.still.lastEdge = m.lastEdge := rfl
@[simp] theorem MotionController.still_measuredPitch (m : MotionController) : m.still.measuredPitch = m.measuredPitch := rfl
@[simp] theorem MotionController.still_presentedLines (m : MotionController) : m.still.presentedLines = m.presentedLines := rfl
@[simp] theorem MotionController.still_gapRun (m : MotionController) : m.still.gapRun = m.gapRun := rfl
@[simp] theorem MotionController.still_searchCount (m : MotionController) : m.still.searchCount = m.searchCount := rfl
@[simp] theorem MotionController.still_values (m : MotionController) : m.still.values = m.values := rfl

/-! ## The machine after a burst -/

@[simp] theorem State.afterBurst_memory (s : State) (m : List Host.Cell) (d : Nat) (f : Chip → Chip) :
    (s.afterBurst m d f).memory = m := rfl
@[simp] theorem State.afterBurst_freeDraws (s : State) (m : List Host.Cell) (d : Nat) (f : Chip → Chip) :
    (s.afterBurst m d f).freeDraws = d := rfl
@[simp] theorem State.afterBurst_resetPin (s : State) (m : List Host.Cell) (d : Nat) (f : Chip → Chip) :
    (s.afterBurst m d f).resetPin = s.resetPin := rfl
@[simp] theorem State.afterBurst_resetWaiting (s : State) (m : List Host.Cell) (d : Nat) (f : Chip → Chip) :
    (s.afterBurst m d f).resetWaiting = false := rfl
@[simp] theorem State.afterBurst_pending (s : State) (m : List Host.Cell) (d : Nat) (f : Chip → Chip) :
    (s.afterBurst m d f).pending = s.pending := rfl

end Sys2Proof.Machine
end

