-- ==== Sys2Proof/Laws/Port.lean ====
section
/-! SUPPORT. What the Memory Port does at the end of a step: while every access asked for lies within reach,
issuing and carrying change the port alone, and leave what each requester has asked for. -/

namespace Sys2Proof.Machine

open Sys2Proof

/-- Issuing an access leaves what was asked for (R18). -/
theorem Access.request_issued (e : EngineControl) (a : Access) : (e.issued a).request = a.request := by
  cases h : a.purpose.isRecord <;> simp [Access.request, EngineControl.issued, h]

/-- A read is asked for as `readAccess` gives it (R18). -/
@[simp] theorem Access.request_read (p : Purpose) (l : Location) (n : Nat) :
    (readAccess p l n).request = readAccess p l n := by
  simp [Access.request, readAccess]

/-- A write is asked for as `writeAccess` gives it (R18). -/
theorem Access.request_write (p : Purpose) (l : Location) (bs : List Byte) (h : p.isRecord = false) :
    (writeAccess p l bs).request = writeAccess p l bs := by
  simp [Access.request, writeAccess, h]

/-- A Fault Record write is asked for as `recordAccess` gives it (R178, R179). -/
@[simp] theorem Access.request_record (p : Purpose) : (recordAccess p).request = recordAccess p := by
  simp [Access.request, recordAccess]

/-- What was asked for has the access's purpose. -/
@[simp] theorem Access.request_purpose (a : Access) : a.request.purpose = a.purpose := rfl

theorem MemoryPort.unissued_mem {p : MemoryPort} {q : Requester} {a : Access} (h : p.unissued = some (q, a)) :
    a.issued = false ∧ ∃ rest, p.queue q = a :: rest := by
  obtain ⟨r, _, hr⟩ := List.exists_of_findSome?_eq_some h
  revert hr
  cases hq : p.queue r with
  | nil => simp
  | cons b bs =>
    simp only
    split
    · simp
    · next hi =>
      intro hr
      simp only [Option.some.injEq, Prod.mk.injEq] at hr
      obtain ⟨rfl, rfl⟩ := hr
      exact ⟨by simpa using hi, bs, hq⟩

theorem Chip.portInReach_iff (c : Chip) :
    c.portInReach = true ↔ ∀ q, ∀ a ∈ c.port.queue q, c.engine.reaches a = true := by
  simp only [Chip.portInReach, List.all_cons, List.all_nil, Bool.and_true, Bool.and_eq_true, List.all_eq_true]
  constructor
  · rintro ⟨h1, h2, h3⟩ q
    cases q
    · exact h1
    · exact h2
    · exact h3
  · exact fun h => ⟨h _, h _, h _⟩

/-- Issuing, while every access asked for lies within reach. -/
theorem Chip.issueAccesses_inReach (n : Nat) (c : Chip) (h : c.portInReach = true) :
    c.issueAccesses n = { c with port := (c.issueAccesses n).port }
      ∧ (c.issueAccesses n).port.inFlight = c.port.inFlight
      ∧ (c.issueAccesses n).port.lastServed = c.port.lastServed
      ∧ ∀ q, (c.issueAccesses n).asked q = c.asked q := by
  induction n generalizing c with
  | zero => exact ⟨rfl, rfl, rfl, fun _ => rfl⟩
  | succ n ih =>
    cases hu : c.port.unissued with
    | none =>
      have : c.issueAccesses (n + 1) = c := by simp only [Chip.issueAccesses, hu]
      rw [this]; exact ⟨rfl, rfl, rfl, fun _ => rfl⟩
    | some qa =>
      obtain ⟨q, a⟩ := qa
      obtain ⟨hi, rest, hq⟩ := MemoryPort.unissued_mem hu
      have hreach := (Chip.portInReach_iff c).1 h q a (by rw [hq]; exact List.mem_cons_self)
      simp only [EngineControl.reaches, hi, Bool.false_or, decide_eq_true_eq] at hreach
      have hadd : ¬ Config.memoryReach < (c.engine.issued a).addr + (c.engine.issued a).length := by
        simp only [EngineControl.issued]; omega
      let c' : Chip := { c with port := c.port.setQueue q (setHead (c.engine.issued a) (c.port.queue q)) }
      have hstep : c.issueAccesses (n + 1) = c'.issueAccesses n := by
        simp only [Chip.issueAccesses, hu, if_neg hadd]; rfl
      have hc' : c'.portInReach = true := by
        rw [Chip.portInReach_iff]
        intro r b hb
        by_cases hr : r = q
        · subst hr
          simp only [c', MemoryPort.queue_setQueue, hq, setHead, List.mem_cons] at hb
          rcases hb with rfl | hb
          · rfl
          · exact (Chip.portInReach_iff c).1 h r b (by rw [hq]; exact List.mem_cons_of_mem _ hb)
        · simp only [c', MemoryPort.queue_setQueue_ne _ _ _ _ hr] at hb
          exact (Chip.portInReach_iff c).1 h r b hb
      obtain ⟨h1, h2, h3, h4⟩ := ih c' hc'
      rw [hstep]
      refine ⟨h1, ?_, ?_, ?_⟩
      · rw [h2]; simp [c']
      · rw [h3]; simp [c']
      · intro r
        rw [h4 r]
        by_cases hr : r = q
        · subst hr
          simp only [Chip.asked, MemoryPort.asked, c', MemoryPort.queue_setQueue, hq, setHead, List.map_cons,
            Access.request_issued]
        · simp only [Chip.asked, MemoryPort.asked, c', MemoryPort.queue_setQueue_ne _ _ _ _ hr]

theorem MemoryPort.carry_queue (p : MemoryPort) (level : Nat) (q : Requester) : (p.carry level).queue q = p.queue q := by
  simp only [MemoryPort.carry]
  split
  · split
    · cases q <;> rfl
    · rfl
  · rfl

/-- A burst in flight stays until it ends: nothing displaces it (R19). -/
theorem MemoryPort.carry_inFlight (p : MemoryPort) (level : Nat) (b : Burst) (h : p.inFlight = some b) :
    p.carry level = p := by
  simp only [MemoryPort.carry, h]

/-- The end of a step changes the port alone, while every access asked for lies within reach. -/
theorem Chip.settlePort_inReach (c : Chip) (h : c.portInReach = true) :
    c.settlePort = { c with port := c.settlePort.port } := by
  have := (Chip.issueAccesses_inReach c.issueWork c h).1
  simp only [Chip.settlePort]
  rw [this]

theorem Chip.settlePort_asked (c : Chip) (h : c.portInReach = true) (q : Requester) :
    c.settlePort.asked q = c.asked q := by
  have := (Chip.issueAccesses_inReach c.issueWork c h).2.2.2 q
  simp only [Chip.asked, MemoryPort.asked, Chip.settlePort, MemoryPort.carry_queue] at this ⊢
  exact this

section
variable (c : Chip) (h : c.portInReach = true)
include h

theorem Chip.settlePort_now : c.settlePort.now = c.now := by rw [Chip.settlePort_inReach c h]
theorem Chip.settlePort_engine : c.settlePort.engine = c.engine := by rw [Chip.settlePort_inReach c h]
theorem Chip.settlePort_job : c.settlePort.job = c.job := by rw [Chip.settlePort_inReach c h]
theorem Chip.settlePort_composer : c.settlePort.composer = c.composer := by rw [Chip.settlePort_inReach c h]
theorem Chip.settlePort_burn : c.settlePort.burn = c.burn := by rw [Chip.settlePort_inReach c h]
theorem Chip.settlePort_motion : c.settlePort.motion = c.motion := by rw [Chip.settlePort_inReach c h]
theorem Chip.settlePort_scanner : c.settlePort.scanner = c.scanner := by rw [Chip.settlePort_inReach c h]
theorem Chip.settlePort_protection : c.settlePort.protection = c.protection := by rw [Chip.settlePort_inReach c h]

end

/-- Asking for an access within reach keeps every access within reach. -/
theorem Chip.portInReach_ask (c : Chip) (q : Requester) (a : Access) (h : c.portInReach = true)
    (ha : c.engine.reaches a = true) : (c.ask q a).portInReach = true := by
  rw [Chip.portInReach_iff] at h ⊢
  intro r b hb
  by_cases hr : r = q
  · subst hr
    simp only [Chip.ask_port, MemoryPort.queue_setQueue, List.mem_append, List.mem_singleton] at hb
    rcases hb with hb | rfl
    · exact h r b hb
    · exact ha
  · simp only [Chip.ask_port, MemoryPort.queue_setQueue_ne _ _ _ _ hr] at hb
    exact h r b hb

/-- What is within reach depends only on the queues and on the control area's address. -/
theorem Chip.portInReach_congr (c d : Chip) (hq : ∀ q, d.port.queue q = c.port.queue q)
    (hb : d.engine.areaBase = c.engine.areaBase) : d.portInReach = c.portInReach := by
  have hl : ∀ a, d.engine.reaches a = c.engine.reaches a := by
    intro a
    simp only [EngineControl.reaches]
    have : d.engine.locate a.location = c.engine.locate a.location := by
      cases a.location <;> simp [EngineControl.locate, hb]
    rw [this]
  simp only [Chip.portInReach, hq, funext hl]

theorem MemoryPort.withdraw_queue (p : MemoryPort) (q r : Requester) (gone : Purpose → Bool) :
    (p.withdraw q gone).queue r = if r = q then (p.queue q).filter (fun a => !gone a.purpose) else p.queue r := by
  simp only [MemoryPort.withdraw]
  have key : ∀ p' : MemoryPort, ∀ x, ({ p' with inFlight := x } : MemoryPort).queue r = p'.queue r := by
    intro p' x; cases r <;> rfl
  have base : (p.setQueue q ((p.queue q).filter fun a => !gone a.purpose)).queue r
      = if r = q then (p.queue q).filter (fun a => !gone a.purpose) else p.queue r := by
    by_cases hr : r = q
    · subst hr; simp
    · simp [hr, MemoryPort.queue_setQueue_ne]
  split
  · exact base
  · split
    · rw [key]; exact base
    · exact base

/-- Withdrawing keeps every access within reach. -/
theorem Chip.portInReach_withdraw (c : Chip) (q : Requester) (gone : Purpose → Bool) (h : c.portInReach = true) :
    (c.withdraw q gone).portInReach = true := by
  rw [Chip.portInReach_iff] at h ⊢
  intro r b hb
  simp only [Chip.withdraw_port, MemoryPort.withdraw_queue] at hb
  split at hb
  · next hr => exact h q b (List.mem_filter.1 hb).1
  · exact h r b hb

/-! ## Bursts -/

/-- A burst carries at least one byte of what is left, and never crosses a 64-byte boundary (R18). -/
theorem burstLength_le (addr left : Nat) : burstLength addr left ≤ left := Nat.min_le_left _ _

theorem burstLength_bound (addr left : Nat) : addr % 64 + burstLength addr left ≤ 64 := by
  simp only [burstLength, Config.burstBytes]; omega

end Sys2Proof.Machine
end

