-- ==== Sys2Proof/Laws/Part.lean ====
section
/-! SUPPORT. What the frame of a command does, and what asking, withdrawing and the other shared operations of
the part can do: each says once everything that the operation changes. -/

namespace Sys2Proof.Machine

open Sys2Proof

/-! ## The frame of a command -/

/-- A command that is taken, its accesses within reach: the part as the command leaves it, but for the port. -/
theorem State.command_taken {s : State} {taken : Bool} {name : RefusedCommand} {f : Chip → Chip} {d : Chip}
    (hr : s.resetPin = false) (ht : taken = true) (hf : f s.chip = d) (hd : d.portInReach = true) :
    s.command taken name f = .next { s with chip := { d with port := d.settlePort.port } } := by
  simp only [State.command, hr, ht, hf, Bool.false_eq_true, if_false, if_true]
  rw [← Chip.settlePort_inReach d hd]

/-- A command that is refused. -/
theorem State.command_refused {s : State} {name : RefusedCommand} {f : Chip → Chip} (hr : s.resetPin = false) :
    s.command false name f = .next { s with chip := s.chip.refuse name } := by
  simp only [State.command, hr, Bool.false_eq_true, if_false]

/-- An event that occurs, its accesses within reach. -/
theorem State.event_occurs {s : State} {holds : Bool} {f : Chip → Chip} {d : Chip} (hr : s.resetPin = false)
    (hh : holds = true) (hf : f s.chip = d) (hd : d.portInReach = true) :
    s.event holds f = .next { s with chip := { d with port := d.settlePort.port } } := by
  simp only [State.event, hr, hh, hf, Bool.not_false, Bool.and_self, if_true]
  rw [← Chip.settlePort_inReach d hd]

/-- An event that leads to no access of job memory. -/
theorem State.inside_occurs {s : State} {holds : Bool} {f : Chip → Chip} (hr : s.resetPin = false)
    (hh : holds = true) : s.inside holds f = .next { s with chip := f s.chip } := by
  simp only [State.inside, hr, hh, Bool.not_false, Bool.and_self, if_true]

/-! ## What is asked for -/

theorem Chip.settlePort_port_asked (c : Chip) (h : c.portInReach = true) (q : Requester) :
    c.settlePort.port.asked q = c.port.asked q := Chip.settlePort_asked c h q

theorem Chip.ask_asked_same (c : Chip) (q : Requester) (a : Access) :
    (c.ask q a).port.asked q = c.port.asked q ++ [a.request] := by
  simp [MemoryPort.asked]

theorem Chip.ask_asked_other (c : Chip) (q r : Requester) (a : Access) (h : r ≠ q) :
    (c.ask q a).port.asked r = c.port.asked r := by
  simp [MemoryPort.asked, MemoryPort.queue_setQueue_ne _ _ _ _ h]

theorem Chip.withdraw_asked_same (c : Chip) (q : Requester) (gone : Purpose → Bool) :
    (c.withdraw q gone).port.asked q = (c.port.asked q).filter fun a => !gone a.purpose := by
  simp only [MemoryPort.asked, Chip.withdraw_port, MemoryPort.withdraw_queue, if_true, List.filter_map]
  rfl

theorem Chip.withdraw_asked_other (c : Chip) (q r : Requester) (gone : Purpose → Bool) (h : r ≠ q) :
    (c.withdraw q gone).port.asked r = c.port.asked r := by
  simp only [MemoryPort.asked, Chip.withdraw_port, MemoryPort.withdraw_queue, h, if_false]

/-- What is within reach, where only blocks other than the port and the control area's address change. -/
theorem Chip.portInReach_of_port (c d : Chip) (h : c.portInReach = true) (hp : d.port = c.port)
    (hb : d.engine.areaBase = c.engine.areaBase) : d.portInReach = true := by
  rw [Chip.portInReach_congr c d (fun q => by rw [hp]) hb]; exact h

/-- A read of a control-area field within reach (R1, R18). -/
theorem EngineControl.reaches_area {e : EngineControl} (h : e.areaInReach = true) (p : Purpose) (off n : Nat)
    (hn : off + n ≤ 0x250) : e.reaches (readAccess p (.area off) n) = true := by
  simp only [EngineControl.areaInReach, decide_eq_true_eq] at h
  simp only [EngineControl.reaches, readAccess, EngineControl.locate, Bool.false_or]
  exact decide_eq_true (by omega)

/-- A write of a control-area field within reach (R1, R18). -/
theorem EngineControl.reaches_area_write {e : EngineControl} (h : e.areaInReach = true) (p : Purpose) (off : Nat)
    (bs : List Byte) (hn : off + bs.length ≤ 0x250) : e.reaches (writeAccess p (.area off) bs) = true := by
  simp only [EngineControl.areaInReach, decide_eq_true_eq] at h
  simp only [EngineControl.reaches, writeAccess, EngineControl.locate, Bool.false_or]
  exact decide_eq_true (by omega)

/-- A read at an address within reach (R18). -/
theorem EngineControl.reaches_at (e : EngineControl) (p : Purpose) {l : Location} {n : Nat}
    (h : e.locate l + n ≤ Config.memoryReach) : e.reaches (readAccess p l n) = true := by
  simp only [EngineControl.reaches, readAccess, Bool.false_or]
  exact decide_eq_true h

/-- A write at an address within reach (R18). -/
theorem EngineControl.reaches_at_write (e : EngineControl) (p : Purpose) {l : Location} {bs : List Byte}
    (h : e.locate l + bs.length ≤ Config.memoryReach) : e.reaches (writeAccess p l bs) = true := by
  simp only [EngineControl.reaches, writeAccess, Bool.false_or]
  exact decide_eq_true h

/-! ## Fault Record writes -/

/-- Once the write of a first cause is wanted, a write that waited has become it, or it stands behind the rest
(R178). -/
theorem Chip.wantFaultRecord_asked (c : Chip) :
    c.wantFaultRecord.port.asked .engine
      = (c.port.engineQueue.map fun a => if a.recordWaits then recordAccess .faultRecord else a.request)
        ++ if c.port.engineQueue.any Access.recordWaits then [] else [recordAccess .faultRecord] := by
  unfold Chip.wantFaultRecord
  split
  · simp only [List.append_nil, MemoryPort.asked, MemoryPort.queue, List.map_map]
    refine List.map_congr_left fun a _ => ?_
    simp only [Function.comp]
    split <;> simp
  · next h =>
    rw [Chip.ask_asked_same, Access.request_record]
    congr 1
    simp only [MemoryPort.asked, MemoryPort.queue]
    refine List.map_congr_left fun a ha => ?_
    simp only [List.any_eq_true, not_exists, not_and] at h
    rw [if_neg (h a ha)]

/-- It changes the port alone, and of the port Engine Control's queue alone. -/
theorem Chip.wantFaultRecord_eq (c : Chip) :
    c.wantFaultRecord
      = { c with port := { c.port with engineQueue := c.wantFaultRecord.port.engineQueue } } := by
  unfold Chip.wantFaultRecord
  split <;> rfl

/-- A rewrite asks for a write of its own unless one waits (R179). -/
theorem Chip.wantFaultRewrite_asked (c : Chip) :
    c.wantFaultRewrite.port.asked .engine
      = c.port.asked .engine
        ++ if c.port.engineQueue.any Access.recordWaits then [] else [recordAccess .faultRewrite] := by
  unfold Chip.wantFaultRewrite
  split
  · exact (List.append_nil _).symm
  · rw [Chip.ask_asked_same, Access.request_record]

/-! ## End write-backs -/

theorem leBytes_length (n v : Nat) : (leBytes n v).length = n := by
  induction n generalizing v with
  | zero => rfl
  | succ n ih => simp only [leBytes, List.length_cons, ih]

theorem resultBytes_length (r : RunningResult) : (resultBytes r).length = 32 := by
  delta resultBytes
  repeat rw [List.length_append]
  repeat rw [leBytes_length]

/-- Asking for writes of Next Values changes the port alone, and asks for one write for each (R101). -/
theorem Chip.askNextValues (base : Nat) (ns : List (Nat × Nat)) (c : Chip) (h : c.portInReach = true)
    (hn : ∀ n ∈ ns, base + n.1 + 0x1C ≤ Config.memoryReach) :
    let d := ns.foldl
      (fun c n => c.ask .job (writeAccess .endNextValue (.at (base + n.1 + 0x18)) (leBytes 4 n.2))) c
    d.portInReach = true ∧ d = { c with port := d.port }
      ∧ d.port.asked .job = c.port.asked .job
          ++ ns.map (fun n => writeAccess .endNextValue (.at (base + n.1 + 0x18)) (leBytes 4 n.2))
      ∧ d.port.asked .composer = c.port.asked .composer ∧ d.port.asked .engine = c.port.asked .engine := by
  induction ns generalizing c with
  | nil => exact ⟨h, rfl, (List.append_nil _).symm, rfl, rfl⟩
  | cons n ns ih =>
    have h1 : (c.ask .job (writeAccess .endNextValue (.at (base + n.1 + 0x18)) (leBytes 4 n.2))).portInReach = true := by
      refine Chip.portInReach_ask _ _ _ h (EngineControl.reaches_at_write _ _ ?_)
      have h0 := hn n List.mem_cons_self
      have hl : c.engine.locate (.at (base + n.1 + 0x18)) = base + n.1 + 0x18 := rfl
      rw [leBytes_length, hl]
      omega
    obtain ⟨a1, a2, a3, a4, a5⟩ := ih _ h1 fun m hm => hn m (List.mem_cons_of_mem _ hm)
    refine ⟨a1, a2, ?_, ?_, ?_⟩
    · rw [List.foldl_cons, a3, Chip.ask_asked_same, Access.request_write _ _ _ rfl,
        List.append_assoc, List.map_cons, List.singleton_append]
    · rw [List.foldl_cons, a4, Chip.ask_asked_other _ _ _ _ (by decide)]
    · rw [List.foldl_cons, a5, Chip.ask_asked_other _ _ _ _ (by decide)]

/-- Asking for an end write-back changes the port alone, and asks for the result block, the Next Values of a
PRINT ticket, and State (R36, R101). -/
theorem Chip.askEndWrites_asks (e : EndWriteBack) (c : Chip) (h : c.portInReach = true)
    (ht : e.ticket.addr.toNat + 0x40 ≤ Config.memoryReach)
    (hn : ∀ n ∈ nextValues e.ticket e.result.copiesCompleted,
      e.ticket.addr.toNat + n.1 + 0x1C ≤ Config.memoryReach) :
    let d := c.askEndWrites e
    d.portInReach = true ∧ d = { c with port := d.port }
      ∧ d.port.asked .job = c.port.asked .job
          ++ [writeAccess .endResult (.at (e.ticket.addr.toNat + 0x20)) (resultBytes e.result)]
          ++ (if e.ticket.kind = .print then
                (nextValues e.ticket e.result.copiesCompleted).map fun n =>
                  writeAccess .endNextValue (.at (e.ticket.addr.toNat + n.1 + 0x18)) (leBytes 4 n.2)
              else [])
          ++ [writeAccess .endState (.at (e.ticket.addr.toNat + 4)) (leBytes 1 e.state.code)]
      ∧ d.port.asked .composer = c.port.asked .composer ∧ d.port.asked .engine = c.port.asked .engine := by
  have h1 : (c.ask .job (writeAccess .endResult (.at (e.ticket.addr.toNat + 0x20))
      (resultBytes e.result))).portInReach = true := by
    refine Chip.portInReach_ask _ _ _ h (EngineControl.reaches_at_write _ _ ?_)
    have hl : c.engine.locate (.at (e.ticket.addr.toNat + 0x20)) = e.ticket.addr.toNat + 0x20 := rfl
    rw [resultBytes_length, hl]
    omega
  have last : ∀ c : Chip, c.portInReach = true → (c.ask .job (writeAccess .endState
      (.at (e.ticket.addr.toNat + 4)) (leBytes 1 e.state.code))).portInReach = true := by
    intro c hc
    refine Chip.portInReach_ask _ _ _ hc (EngineControl.reaches_at_write _ _ ?_)
    have hl : c.engine.locate (.at (e.ticket.addr.toNat + 4)) = e.ticket.addr.toNat + 4 := rfl
    rw [leBytes_length, hl]
    omega
  by_cases hk : e.ticket.kind = .print
  · obtain ⟨a1, a2, a3, a4, a5⟩ := Chip.askNextValues e.ticket.addr.toNat _ _ h1 hn
    simp only [Chip.askEndWrites, if_pos hk]
    refine ⟨last _ a1, ?_, ?_, ?_, ?_⟩
    · rw [a2]; rfl
    · rw [Chip.ask_asked_same, a3, Chip.ask_asked_same, Access.request_write _ _ _ rfl,
        Access.request_write _ _ _ rfl]
    · rw [Chip.ask_asked_other _ _ _ _ (by decide), a4, Chip.ask_asked_other _ _ _ _ (by decide)]
    · rw [Chip.ask_asked_other _ _ _ _ (by decide), a5, Chip.ask_asked_other _ _ _ _ (by decide)]
  · simp only [Chip.askEndWrites, if_neg hk]
    refine ⟨last _ h1, rfl, ?_, ?_, ?_⟩
    · rw [Chip.ask_asked_same, Chip.ask_asked_same, List.append_nil, Access.request_write _ _ _ rfl,
        Access.request_write _ _ _ rfl]
    · rw [Chip.ask_asked_other _ _ _ _ (by decide), Chip.ask_asked_other _ _ _ _ (by decide)]
    · rw [Chip.ask_asked_other _ _ _ _ (by decide), Chip.ask_asked_other _ _ _ _ (by decide)]

/-- An end write-back leaves everything but the port; and does so whatever the job state is. -/
theorem Chip.askEndWrites_port (e : EndWriteBack) (c d : Chip) (h : d.port = c.port) :
    (d.askEndWrites e).port = (c.askEndWrites e).port ∧ d.askEndWrites e = { d with port := (d.askEndWrites e).port } := by
  have fold : ∀ (ns : List (Nat × Nat)) (c d : Chip), d.port = c.port →
      let f := fun (c : Chip) (n : Nat × Nat) =>
        c.ask .job (writeAccess .endNextValue (.at (e.ticket.addr.toNat + n.1 + 0x18)) (leBytes 4 n.2))
      (ns.foldl f d).port = (ns.foldl f c).port ∧ ns.foldl f d = { d with port := (ns.foldl f d).port } := by
    intro ns
    induction ns with
    | nil => exact fun c d h => ⟨h, rfl⟩
    | cons n ns ih =>
      intro c d h f
      obtain ⟨h1, h2⟩ := ih (f c n) (f d n) (by simp only [f, Chip.ask_port, h])
      refine ⟨h1, ?_⟩
      rw [List.foldl_cons, h2]
      rfl
  by_cases hk : e.ticket.kind = .print
  · obtain ⟨h1, h2⟩ := fold (nextValues e.ticket e.result.copiesCompleted)
      (c.ask .job (writeAccess .endResult (.at (e.ticket.addr.toNat + 0x20)) (resultBytes e.result)))
      (d.ask .job (writeAccess .endResult (.at (e.ticket.addr.toNat + 0x20)) (resultBytes e.result)))
      (by simp only [Chip.ask_port, h])
    simp only [Chip.askEndWrites, if_pos hk]
    refine ⟨by simp only [Chip.ask_port, h1], ?_⟩
    rw [h2]
    rfl
  · simp only [Chip.askEndWrites, if_neg hk]
    exact ⟨by simp only [Chip.ask_port, h], rfl⟩

/-! ## Shared operations -/

/-- The end of a look in flight: no look is in flight and the last look read no zero link; with none in flight
nothing changes (R23). -/
theorem JobController.dropLook_eq (j : JobController) :
    (∃ again, j.activity = .look again ∧ j.dropLook = { j with activity := .none, lastLookZero := false })
      ∨ ((∀ again, j.activity ≠ .look again) ∧ j.dropLook = j) := by
  cases h : j.activity <;> simp [JobController.dropLook, h]

/-- A report into the running result changes nothing else, and nothing at all with no ticket current (R35). -/
theorem Chip.report_eq (f : RunningResult → RunningResult) (c : Chip) :
    c.report f = { c with job := { c.job with
      result := if c.job.current = none then c.job.result else f c.job.result } } := by
  simp only [Chip.report]
  split
  · next h => rw [if_pos h]
  · next h => rw [if_neg (by rw [h]; exact Option.some_ne_none _)]

/-- The gate closes, or was closed already (R163, R123). -/
theorem Chip.closeGate_eq (c : Chip) :
    c.closeGate = { c with
      protection := { c.protection with gate := .closed }
      burn := if c.protection.gate = .closed then c.burn else c.burn.abandon } := by
  simp only [Chip.closeGate]
  split
  · next h => rw [← h]
  · rfl

/-- Re-examining the supply changes the Protection Unit, and the Burn Controller when the gate closes (R162,
R163, R166). -/
theorem Chip.examineSupply_eq (c : Chip) :
    c.examineSupply = { c with
      protection := c.examineSupply.protection
      burn := if c.supplyWanted = true ∨ c.protection.gate = .closed then c.burn else c.burn.abandon } := by
  simp only [Chip.examineSupply]
  split
  · next h => split <;> simp [h]
  · next h => simp [Chip.closeGate_eq, h]

/-- With no dot test in hand there is none to abandon (R173). -/
theorem Chip.abandonTest_idle (c : Chip) (h : c.protection.test = .idle) : c.abandonTest = c := by
  simp [Chip.abandonTest, h]

/-- A first cause becomes the first cause, and a cause already held changes nothing (R178, R179). -/
theorem Chip.reportFault_held (k : Cause) (ticket : Word) (c : Chip) (h0 : c.engine.firstCause ≠ none)
    (h : c.engine.holds k = true) : c.reportFault k ticket = c := by
  simp [Chip.reportFault, h0, h]

/-- The flush of a Composer that is not SUSPENDED, with the register flush (R69, R124). -/
theorem Chip.flush_eq (c : Chip) (h : c.composer.state ≠ .suspended) :
    c.flush = { c with
      port := c.port.withdraw .composer fun _ => true
      composer := .reset
      burn := { c.burn with register := none } } := by
  simp [Chip.flush, Chip.flushComposer, h, Chip.withdraw, Composer.emptied, BurnController.flushRegister,
    Composer.reset]

end Sys2Proof.Machine
end

