-- ==== Sys2Proof/Laws/Issue.lean ====
section
/-! SUPPORT. That a step issues all it is asked for: what ends as a bus error never adds to the work that is left
(`Chip.issueWork`), so the fuel of `Chip.settlePort` suffices. -/

namespace Sys2Proof.Machine

open Sys2Proof

/-! ## The work left, under the shared operations -/

/-- The work left depends only on the port, the causes held, the dot test's state and the walk that waits. -/
theorem Chip.issueWork_congr (c d : Chip) (hp : d.port = c.port) (hf : d.engine.firstCause = c.engine.firstCause)
    (hg : d.engine.further = c.engine.further) (ht : d.protection.test = c.protection.test)
    (hw : d.job.walkWaiting = c.job.walkWaiting) : d.issueWork = c.issueWork := by
  unfold Chip.issueWork Chip.mayStillAsk EngineControl.holds
  rw [hp, hf, hg, ht, hw]

theorem MemoryPort.unissuedCount_setQueue (p : MemoryPort) (q : Requester) (as : List Access) :
    (p.setQueue q as).unissuedCount + (p.queue q).countP (fun a => !a.issued)
      = p.unissuedCount + as.countP fun a => !a.issued := by
  cases q <;> simp only [MemoryPort.unissuedCount, MemoryPort.setQueue, MemoryPort.queue] <;> omega

/-- Shortening a queue leaves no more to be issued. -/
theorem MemoryPort.unissuedCount_setQueue_le (p : MemoryPort) (q : Requester) {as : List Access}
    (h : as.Sublist (p.queue q)) : (p.setQueue q as).unissuedCount ≤ p.unissuedCount := by
  have h1 := MemoryPort.unissuedCount_setQueue p q as
  have h2 := h.countP_le (p := fun a => !a.issued)
  omega

theorem MemoryPort.withdraw_unissuedCount_le (p : MemoryPort) (q : Requester) (gone : Purpose → Bool) :
    (p.withdraw q gone).unissuedCount ≤ p.unissuedCount := by
  have h := MemoryPort.unissuedCount_setQueue_le p q
    (List.filter_sublist (p := fun a => !gone a.purpose) (l := p.queue q))
  simp only [MemoryPort.withdraw]
  split
  · exact h
  · split <;> exact h

/-- Withdrawing leaves no more work. -/
theorem Chip.withdraw_issueWork_le (c : Chip) (q : Requester) (gone : Purpose → Bool) :
    (c.withdraw q gone).issueWork ≤ c.issueWork := by
  exact Nat.add_le_add_right (MemoryPort.withdraw_unissuedCount_le c.port q gone) c.mayStillAsk

/-- Asking for one access adds at most one. -/
theorem Chip.ask_issueWork_le (c : Chip) (q : Requester) (a : Access) :
    (c.ask q a).issueWork ≤ c.issueWork + 1 := by
  have h := MemoryPort.unissuedCount_setQueue c.port q (c.port.queue q ++ [a])
  have h1 : [a].countP (fun a => !a.issued) ≤ 1 := List.countP_le_length
  simp only [List.countP_append] at h
  have e : (c.ask q a).issueWork = (c.port.setQueue q (c.port.queue q ++ [a])).unissuedCount + c.mayStillAsk := rfl
  rw [e]
  simp only [Chip.issueWork]
  omega

theorem Chip.examineSupply_issueWork (c : Chip) : c.examineSupply.issueWork = c.issueWork := by
  refine Chip.issueWork_congr _ _ ?_ ?_ ?_ ?_ ?_ <;>
  · unfold Chip.examineSupply Chip.closeGate
    split
    · split <;> rfl
    · split <;> rfl

/-- Abandoning a dot test adds nothing: its outcome write is counted while a test is in hand. -/
theorem Chip.abandonTest_issueWork_le (c : Chip) : c.abandonTest.issueWork ≤ c.issueWork := by
  unfold Chip.abandonTest
  split
  · exact Nat.le_refl _
  · next h =>
    refine Nat.le_trans (Chip.ask_issueWork_le _ _ _) ?_
    rw [Chip.examineSupply_issueWork]
    refine Nat.le_trans (Nat.succ_le_succ (Chip.withdraw_issueWork_le _ _ _)) ?_
    have h1 : (decide (c.protection.test ≠ .idle)).toNat = 1 := by simpa using h
    simp only [Chip.issueWork, Chip.mayStillAsk, h1, ne_eq, not_true_eq_false, decide_false, Bool.toNat_false]
    omega

/-- The entry to HALTED adds nothing. -/
theorem Chip.enterHalted_issueWork_le (c : Chip) : c.enterHalted.issueWork ≤ c.issueWork := by
  simp only [Chip.enterHalted, Chip.examineSupply_issueWork]
  refine Nat.le_trans (Chip.abandonTest_issueWork_le _) ?_
  refine Nat.le_trans (Chip.withdraw_issueWork_le _ _ _) ?_
  let c1 : Chip := { c with engine := { c.engine with state := .halted, haltedFrom := some c.engine.state } }
  refine Nat.le_trans (Nat.le_of_eq (Chip.issueWork_congr
    (((c1.stopMotion.suspendComposer).abandonBurn).withdraw .job Purpose.endsAtHalt) _ rfl rfl rfl rfl ?_)) ?_
  · simp only [JobController.suspend, JobController.dropLook]
    split <;> rfl
  refine Nat.le_trans (Chip.withdraw_issueWork_le _ _ _) ?_
  refine Nat.le_trans (Nat.le_of_eq (Chip.issueWork_congr (c1.withdraw .composer fun _ => true) _
    rfl rfl rfl rfl rfl)) ?_
  exact Nat.le_trans (Chip.withdraw_issueWork_le _ _ _)
    (Nat.le_of_eq (Chip.issueWork_congr c _ rfl rfl rfl rfl rfl))

theorem Chip.wantFaultRecord_issueWork_le (c : Chip) : c.wantFaultRecord.issueWork ≤ c.issueWork + 1 := by
  unfold Chip.wantFaultRecord
  split
  · have h : ∀ l : List Access,
        (l.map fun a => if a.recordWaits then recordAccess .faultRecord else a).countP (fun a => !a.issued)
          = l.countP fun a => !a.issued := by
      intro l
      rw [List.countP_map]
      refine List.countP_congr fun a _ => ?_
      simp only [Function.comp]
      split
      · next h => simp [Access.recordWaits] at h; simp [recordAccess, h.2]
      · rfl
    simp only [Chip.issueWork, Chip.mayStillAsk, MemoryPort.unissuedCount, h]
    omega
  · exact Chip.ask_issueWork_le _ _ _

theorem Chip.wantFaultRewrite_issueWork_le (c : Chip) : c.wantFaultRewrite.issueWork ≤ c.issueWork + 1 := by
  unfold Chip.wantFaultRewrite
  split
  · omega
  · exact Chip.ask_issueWork_le _ _ _

/-- A cause that has joined the further causes is held (R179). -/
theorem EngineControl.holds_further (e : EngineControl) (k : Cause) :
    ({ e with further := e.further ||| k.bit } : EngineControl).holds k = true := by
  have : (e.further ||| k.bit) &&& k.bit = k.bit := by
    ext i hi
    simp
    tauto
  simp only [EngineControl.holds, this, Bool.or_eq_true, decide_eq_true_eq]
  right
  cases k <;> decide

/-- Reporting MEMORY_FAULT adds nothing: its Fault Record write is counted while the cause is not held. -/
theorem Chip.reportFault_issueWork_le (ticket : Word) (c : Chip) :
    (c.reportFault .memoryFault ticket).issueWork ≤ c.issueWork := by
  unfold Chip.reportFault
  split
  · next h =>
    refine Nat.le_trans (Chip.wantFaultRecord_issueWork_le _) ?_
    have key : ∀ d : Chip, d.port = c.port → d.protection = c.protection → d.job = c.job →
        d.engine.firstCause = some .memoryFault → d.issueWork + 1 ≤ c.issueWork := by
      intro d hp ht hj hf
      simp only [Chip.issueWork, Chip.mayStillAsk, EngineControl.holds, hp, ht, hj, hf, h]
      simp
    split
    · exact Nat.le_trans (Nat.succ_le_succ (Chip.enterHalted_issueWork_le _)) (key _ rfl rfl rfl rfl)
    · exact key _ rfl rfl rfl rfl
  · next h =>
    split
    · exact Nat.le_refl _
    · next hh =>
      refine Nat.le_trans (Chip.wantFaultRewrite_issueWork_le _) ?_
      have := EngineControl.holds_further c.engine .memoryFault
      have hs : c.engine.firstCause.isSome = true := Option.isSome_iff_ne_none.2 h
      simp only [Bool.not_eq_true] at hh
      simp only [Chip.issueWork, Chip.mayStillAsk, this, hh, hs, Bool.and_true, Bool.and_false, Bool.not_true,
        Bool.not_false, Bool.toNat_true, Bool.toNat_false]
      omega

/-- A walk that begins adds nothing: its first read is counted while it waits. -/
theorem Chip.tryWalk_issueWork_le (c : Chip) : c.tryWalk.issueWork ≤ c.issueWork := by
  unfold Chip.tryWalk
  split
  · next h =>
    refine Nat.le_trans (Chip.ask_issueWork_le _ _ _) ?_
    simp only [Bool.and_eq_true] at h
    simp only [Chip.issueWork, Chip.mayStillAsk, h.1.1, Bool.toNat_true, Bool.toNat_false]
    omega
  · exact Nat.le_refl _

/-- What a requester does at a bus error adds nothing. -/
theorem Chip.abandonAccess_issueWork_le (purpose : Purpose) (c : Chip) :
    (c.abandonAccess purpose).issueWork ≤ c.issueWork := by
  have promo : ∀ c : Chip, c.promotionFailed.issueWork ≤ c.issueWork := fun c =>
    Nat.le_trans (Chip.tryWalk_issueWork_le _) (Nat.le_of_eq (Chip.issueWork_congr c _ rfl rfl rfl rfl rfl))
  have same : ∀ d : Chip, d.port = c.port → d.engine.firstCause = c.engine.firstCause →
      d.engine.further = c.engine.further → d.protection.test = c.protection.test →
      d.job.walkWaiting = c.job.walkWaiting → d.issueWork ≤ c.issueWork := fun d a b e f g =>
    Nat.le_of_eq (Chip.issueWork_congr c d a b e f g)
  have look : c.failLook.issueWork ≤ c.issueWork := same _ rfl rfl rfl rfl (by
    simp only [Chip.failLook, JobController.dropLook]; split <;> rfl)
  have fails : c.failEnd.issueWork ≤ c.issueWork :=
    Nat.le_trans (Nat.le_of_eq (Chip.issueWork_congr (c.withdraw .job Purpose.isEnd) _ rfl rfl rfl rfl rfl))
      (Chip.withdraw_issueWork_le _ _ _)
  have drops : ∀ later, (c.dropPublication later).issueWork ≤ c.issueWork := by
    intro later
    have := MemoryPort.unissuedCount_setQueue_le c.port .engine
      (List.dropWhile_sublist (p := fun a : Access => later a.purpose) (l := c.port.queue .engine))
    have e : (c.dropPublication later).issueWork
        = (c.port.setQueue .engine ((c.port.queue .engine).dropWhile fun a => later a.purpose)).unissuedCount
          + c.mayStillAsk := rfl
    rw [e]
    simp only [Chip.issueWork]
    omega
  have drop : ∀ c : Chip, c.dropWalk.issueWork ≤ c.issueWork := by
    intro c
    unfold Chip.dropWalk
    split
    · exact Nat.le_trans
        (Nat.le_of_eq (Chip.issueWork_congr (c.withdraw .job Purpose.isWalk) _ rfl rfl rfl rfl rfl))
        (Chip.withdraw_issueWork_le _ _ _)
    · exact Nat.le_refl _
  have raise : ∀ d : Chip, (d.raise .testEnd).issueWork ≤ d.issueWork := fun d =>
    Nat.le_of_eq (Chip.issueWork_congr d _ rfl rfl rfl rfl rfl)
  cases purpose with
  | settingsFirst p =>
    cases p <;>
      first | exact same _ rfl rfl rfl rfl rfl | exact Chip.abandonTest_issueWork_le c | exact look
  | settingsBlock p g =>
    cases p <;>
      first | exact same _ rfl rfl rfl rfl rfl | exact Chip.abandonTest_issueWork_le c | exact look
  | settingsSecond p g b =>
    cases p <;>
      first | exact same _ rfl rfl rfl rfl rfl | exact Chip.abandonTest_issueWork_le c | exact look
  | lookLink => exact look
  | lookHeader _ => exact look
  | promotionState =>
    exact Nat.le_trans (Chip.tryWalk_issueWork_le _) (same _ rfl rfl rfl rfl rfl)
  | refuseHeld => exact Nat.le_trans (promo _) (same _ rfl rfl rfl rfl rfl)
  | refuseResult => exact promo c
  | refuseState => exact promo c
  | takenState => exact promo c
  | heldWrite => exact Nat.le_trans (drop _) (same _ rfl rfl rfl rfl rfl)
  | endResult => exact fails
  | endNextValue => exact fails
  | endState => exact fails
  | publishMap => exact Nat.le_trans (raise _) (drops _)
  | publishCount => exact Nat.le_trans (raise _) (drops _)
  | _ => exact same _ rfl rfl rfl rfl rfl

theorem Chip.recordFailed_issueWork_le (c : Chip) : c.recordFailed.issueWork ≤ c.issueWork := by
  unfold Chip.recordFailed
  split
  · exact Chip.reportFault_issueWork_le _ _
  · next k hk =>
    refine Nat.le_trans ?_ (Chip.withdraw_issueWork_le c .engine fun p => decide (p = .faultRewrite))
    simp only
    split
    · exact Nat.le_refl _
    · next hh =>
      have h := EngineControl.holds_further c.engine .memoryFault
      have hh' : c.engine.holds .memoryFault = false := by simpa using hh
      simp only [Chip.issueWork, Chip.mayStillAsk, Chip.withdraw, h, hh', Bool.and_false, Bool.not_false,
        Bool.toNat_true]
      have := Bool.toNat_le (!(c.engine.firstCause.isSome && true))
      omega

/-- An access that ends as a bus error adds nothing to the work left. -/
theorem Chip.accessFailed_issueWork_le (purpose : Purpose) (start : Nat) (c : Chip) :
    (c.accessFailed purpose start).issueWork ≤ c.issueWork := by
  unfold Chip.accessFailed
  split
  · exact Chip.recordFailed_issueWork_le c
  · exact Nat.le_trans (Chip.reportFault_issueWork_le _ _) (Chip.abandonAccess_issueWork_le _ _)

/-- With enough fuel every requester's first access is issued: what reaches too far has ended at once (R18). -/
theorem Chip.issueAccesses_drains (n : Nat) (c : Chip) (h : c.issueWork ≤ n) :
    (c.issueAccesses n).port.unissued = none := by
  induction n generalizing c with
  | zero =>
    simp only [Chip.issueAccesses]
    cases hu : c.port.unissued with
    | none => rfl
    | some qa =>
      obtain ⟨hi, rest, hq⟩ := MemoryPort.unissued_mem hu
      have := MemoryPort.unissuedCount_setQueue c.port qa.1 rest
      rw [hq, List.countP_cons] at this
      simp only [hi, Bool.not_false, if_true] at this
      simp only [Chip.issueWork] at h
      omega
  | succ n ih =>
    simp only [Chip.issueAccesses]
    cases hu : c.port.unissued with
    | none => simpa using hu
    | some qa =>
      obtain ⟨q, a⟩ := qa
      obtain ⟨hi, rest, hq⟩ := MemoryPort.unissued_mem hu
      have count := MemoryPort.unissuedCount_setQueue c.port q
      rw [hq, List.countP_cons] at count
      simp only [hi, Bool.not_false, if_true] at count
      have work : ∀ p : MemoryPort, ({ c with port := p } : Chip).issueWork = p.unissuedCount + c.mayStillAsk :=
        fun _ => rfl
      simp only [Chip.issueWork] at h
      simp only
      split
      · refine ih _ (Nat.le_trans (Chip.accessFailed_issueWork_le _ _ _) ?_)
        have := count rest
        rw [work, hq, List.tail_cons]
        omega
      · refine ih _ ?_
        have := count (setHead (c.engine.issued a) (a :: rest))
        simp only [setHead, List.countP_cons, EngineControl.issued, Bool.not_true, Bool.false_eq_true, if_false] at this
        rw [work, hq]
        simp only [setHead, EngineControl.issued]
        omega

end Sys2Proof.Machine
end

