-- ==== Sys2Proof/Laws/Memory.lean ====
section
/-! SUPPORT. The laws of job memory: a read after a write, and that every operation keeps the canonical
form. -/

namespace Sys2Proof.Machine

open Sys2Proof

namespace Memory

/-! ## Reads after writes -/

theorem read_of_lt {lo : Nat} {m : List Host.Cell} (h : wfFrom lo m = true) {a : Nat} (ha : a < lo) :
    read m a = unlisted := by
  induction m generalizing lo with
  | nil => rfl
  | cons c cs ih =>
    simp only [wfFrom, Bool.and_eq_true, decide_eq_true_eq] at h
    obtain ⟨⟨⟨h1, _⟩, _⟩, h4⟩ := h
    have : c.1 ≠ a := by omega
    simp only [read, this, if_false]
    exact ih h4 (by omega)

theorem read_write_same {lo : Nat} {m : List Host.Cell} (h : wfFrom lo m = true) (a : Nat) (b : Byte) :
    read (write m a b) a = b := by
  induction m generalizing lo with
  | nil =>
    simp only [write]
    split
    · next hb => simp [read, hb]
    · simp [read]
  | cons c cs ih =>
    simp only [wfFrom, Bool.and_eq_true, decide_eq_true_eq] at h
    obtain ⟨⟨⟨_, _⟩, _⟩, h4⟩ := h
    simp only [write]
    split
    · next hlt =>
      have : c.1 ≠ a := by omega
      simp only [read, this, if_false]
      exact ih h4
    · split
      · next heq =>
        split
        · next hb => rw [hb]; exact read_of_lt h4 (by omega)
        · simp [read]
      · split
        · next h1 h2 hb =>
          have : c.1 ≠ a := by omega
          simp only [read, this, if_false, hb]
          exact read_of_lt h4 (by omega)
        · simp [read]

theorem read_write_other (m : List Host.Cell) {a x : Nat} (b : Byte) (hx : x ≠ a) :
    read (write m a b) x = read m x := by
  induction m with
  | nil =>
    simp only [write]
    split
    · rfl
    · simp [read, Ne.symm hx]
  | cons c cs ih =>
    simp only [write]
    split
    · simp only [read, ih]
    · split
      · next heq =>
        have : c.1 ≠ x := by omega
        split
        · simp [read, this]
        · simp [read, this, Ne.symm hx]
      · split
        · rfl
        · simp [read, Ne.symm hx]

theorem read_writeIn_other (m : List Host.Cell) {a x : Nat} (b : Byte) (hx : x ≠ a) :
    read (writeIn m a b) x = read m x := by
  simp only [writeIn]
  split
  · exact read_write_other m b hx
  · rfl

/-- A run of writes leaves every byte outside the run as it was. -/
theorem read_writeRun_other (m : List Host.Cell) (a x : Nat) (bs : List Byte) (hx : x < a ∨ a + bs.length ≤ x) :
    read (writeRun m a bs) x = read m x := by
  induction bs generalizing m a with
  | nil => rfl
  | cons b bs ih =>
    simp only [List.length_cons] at hx
    rw [writeRun, ih _ _ (by omega), read_writeIn_other _ _ (by omega)]

/-- A cut burst leaves every byte outside its run as it was. -/
theorem read_writeCut_other (m : List Host.Cell) (draw k a x : Nat) (bs : List Byte)
    (hx : x < a ∨ a + bs.length ≤ x) : read (writeCut m draw k a bs) x = read m x := by
  induction bs generalizing m a k with
  | nil => rfl
  | cons b bs ih =>
    simp only [List.length_cons] at hx
    rw [writeCut, ih _ _ _ (by omega)]
    split
    · exact read_writeIn_other _ _ (by omega)
    · rfl

/-! ## The canonical form -/

theorem wfFrom_mono {lo lo' : Nat} (hl : lo' ≤ lo) {m : List Host.Cell} (h : wfFrom lo m = true) :
    wfFrom lo' m = true := by
  cases m with
  | nil => rfl
  | cons c cs =>
    simp only [wfFrom, Bool.and_eq_true, decide_eq_true_eq] at h ⊢
    exact ⟨⟨⟨by omega, h.1.1.2⟩, h.1.2⟩, h.2⟩

theorem wfFrom_write {lo : Nat} {m : List Host.Cell} (h : wfFrom lo m = true) {a : Nat} (ha : lo ≤ a)
    (hr : a < Config.memoryReach) (b : Byte) : wfFrom lo (write m a b) = true := by
  induction m generalizing lo with
  | nil =>
    simp only [write]
    split
    · rfl
    · next hb => simp [wfFrom, ha, hr, hb]
  | cons c cs ih =>
    have h0 := h
    simp only [wfFrom, Bool.and_eq_true, decide_eq_true_eq] at h
    obtain ⟨⟨⟨h1, h2⟩, h3⟩, h4⟩ := h
    simp only [write]
    split
    · simp only [wfFrom, Bool.and_eq_true, decide_eq_true_eq]
      exact ⟨⟨⟨h1, h2⟩, h3⟩, ih h4 (by omega)⟩
    · split
      · next heq =>
        split
        · exact wfFrom_mono (by omega) h4
        · next hb =>
          simp only [wfFrom, Bool.and_eq_true, decide_eq_true_eq]
          exact ⟨⟨⟨ha, hr⟩, hb⟩, by rw [← heq]; exact h4⟩
      · split
        · exact h0
        · next hlt heq hb =>
          simp only [wfFrom, Bool.and_eq_true, decide_eq_true_eq]
          exact ⟨⟨⟨ha, hr⟩, hb⟩, ⟨⟨by omega, h2⟩, h3⟩, h4⟩

theorem wf_writeIn {m : List Host.Cell} (h : wf m = true) (a : Nat) (b : Byte) : wf (writeIn m a b) = true := by
  simp only [writeIn]
  split
  · next hr => exact wfFrom_write h (Nat.zero_le a) hr b
  · exact h

theorem wf_writeRun {m : List Host.Cell} (h : wf m = true) (a : Nat) (bs : List Byte) :
    wf (writeRun m a bs) = true := by
  induction bs generalizing m a with
  | nil => exact h
  | cons b bs ih => exact ih (wf_writeIn h a b) (a + 1)

theorem wf_writeCut {m : List Host.Cell} (h : wf m = true) (draw k a : Nat) (bs : List Byte) :
    wf (writeCut m draw k a bs) = true := by
  induction bs generalizing m k a with
  | nil => exact h
  | cons b bs ih =>
    simp only [writeCut]
    split
    · exact ih (wf_writeIn h a b) (k + 1) (a + 1)
    · exact ih h (k + 1) (a + 1)

theorem wf_hostWrite {m : List Host.Cell} (h : wf m = true) (ws : HostWrites) : wf (hostWrite m ws) = true := by
  induction ws generalizing m with
  | nil => exact h
  | cons w ws ih => exact ih (wf_writeIn h w.1 w.2)

/-- A run of writes within reach is read back. -/
theorem readRun_writeRun {m : List Host.Cell} (h : wf m = true) (a : Nat) (bs : List Byte)
    (hr : a + bs.length ≤ Config.memoryReach) : readRun (writeRun m a bs) a bs.length = bs := by
  induction bs generalizing m a with
  | nil => rfl
  | cons b bs ih =>
    simp only [List.length_cons] at hr
    have hw : writeIn m a b = write m a b := by simp only [writeIn]; rw [if_pos (by omega)]
    simp only [List.length_cons, readRun, writeRun, List.cons.injEq]
    refine ⟨?_, ih (wf_writeIn h a b) (a + 1) (by omega)⟩
    rw [read_writeRun_other _ _ _ _ (Or.inl (Nat.lt_succ_self a)), hw]
    exact read_write_same (by exact h) a b

end Memory

end Sys2Proof.Machine
end

