-- ==== Sys2Proof/Laws/PerInstr.lean ====
section
/-! SUPPORT. A law of each command as syntax: no word of the table's bits spells it, since the table gives
its row no bits (log entry 3). -/

namespace Sys2Proof.Laws

/-- No word spells the command. -/
def NoWord.Statement (i : Instr) : Prop := ∀ nbits w : Nat, decodeTableWord nbits w ≠ some i

theorem NoWord.areaWrite (value : Word) : NoWord.Statement (.areaWrite value) := fun _ _ h => nomatch h
theorem NoWord.start : NoWord.Statement (.start) := fun _ _ h => nomatch h
theorem NoWord.stop : NoWord.Statement (.stop) := fun _ _ h => nomatch h
theorem NoWord.look : NoWord.Statement (.look) := fun _ _ h => nomatch h
theorem NoWord.resume : NoWord.Statement (.resume) := fun _ _ h => nomatch h
theorem NoWord.cancelTicket : NoWord.Statement (.cancelTicket) := fun _ _ h => nomatch h
theorem NoWord.cancelChain : NoWord.Statement (.cancelChain) := fun _ _ h => nomatch h
theorem NoWord.dotTest : NoWord.Statement (.dotTest) := fun _ _ h => nomatch h
theorem NoWord.reset : NoWord.Statement (.reset) := fun _ _ h => nomatch h
theorem NoWord.unknownCommand (value : Word) : NoWord.Statement (.unknownCommand value) := fun _ _ h => nomatch h
theorem NoWord.eventsWrite (value : Word) : NoWord.Statement (.eventsWrite value) := fun _ _ h => nomatch h
theorem NoWord.registerWriteIgnored (offset : BitVec 4) (width : Nat) (value : Word) : NoWord.Statement (.registerWriteIgnored offset width value) := fun _ _ h => nomatch h
theorem NoWord.pinReset (hostWrites : HostWrites) : NoWord.Statement (.pinReset hostWrites) := fun _ _ h => nomatch h
theorem NoWord.burstComplete (hostWrites : HostWrites) : NoWord.Statement (.burstComplete hostWrites) := fun _ _ h => nomatch h
theorem NoWord.busError (hostWrites : HostWrites) : NoWord.Statement (.busError hostWrites) := fun _ _ h => nomatch h
theorem NoWord.lookTimerExpiry : NoWord.Statement (.lookTimerExpiry) := fun _ _ h => nomatch h
theorem NoWord.promotion : NoWord.Statement (.promotion) := fun _ _ h => nomatch h
theorem NoWord.copyStart : NoWord.Statement (.copyStart) := fun _ _ h => nomatch h
theorem NoWord.composeLine : NoWord.Statement (.composeLine) := fun _ _ h => nomatch h
theorem NoWord.lineTake : NoWord.Statement (.lineTake) := fun _ _ h => nomatch h
theorem NoWord.shiftComplete : NoWord.Statement (.shiftComplete) := fun _ _ h => nomatch h
theorem NoWord.burnPhaseEnd : NoWord.Statement (.burnPhaseEnd) := fun _ _ h => nomatch h
theorem NoWord.burnEnd : NoWord.Statement (.burnEnd) := fun _ _ h => nomatch h
theorem NoWord.headLinkGrant : NoWord.Statement (.headLinkGrant) := fun _ _ h => nomatch h
theorem NoWord.periodTimerExpiry : NoWord.Statement (.periodTimerExpiry) := fun _ _ h => nomatch h
theorem NoWord.forwardStep : NoWord.Statement (.forwardStep) := fun _ _ h => nomatch h
theorem NoWord.reverseStep : NoWord.Statement (.reverseStep) := fun _ _ h => nomatch h
theorem NoWord.conversionComplete (code : Code) : NoWord.Statement (.conversionComplete code) := fun _ _ h => nomatch h
theorem NoWord.encoderTransition (first : Bool) (second : Bool) : NoWord.Statement (.encoderTransition first second) := fun _ _ h => nomatch h
theorem NoWord.switchInputChange (input : Switch) (level : Bool) : NoWord.Statement (.switchInputChange input level) := fun _ _ h => nomatch h
theorem NoWord.headClosedDebounced : NoWord.Statement (.headClosedDebounced) := fun _ _ h => nomatch h
theorem NoWord.takenDebounced : NoWord.Statement (.takenDebounced) := fun _ _ h => nomatch h
theorem NoWord.supplySettled : NoWord.Statement (.supplySettled) := fun _ _ h => nomatch h
theorem NoWord.testDotStart : NoWord.Statement (.testDotStart) := fun _ _ h => nomatch h
theorem NoWord.dotShiftComplete : NoWord.Statement (.dotShiftComplete) := fun _ _ h => nomatch h
theorem NoWord.testPulseEnd : NoWord.Statement (.testPulseEnd) := fun _ _ h => nomatch h
theorem NoWord.enterStopped : NoWord.Statement (.enterStopped) := fun _ _ h => nomatch h
theorem NoWord.resetPinRelease : NoWord.Statement (.resetPinRelease) := fun _ _ h => nomatch h

end Sys2Proof.Laws
end

