-- ==== Sys2Proof/Tests/Slice0.lean ====
section
/-! SUPPORT. Tests of single operations against the manual's worked examples, tables and rules (each names its
source), the ill-formed commands that the checks refuse, and for every obligation with hypotheses a state and
operands that meet them. -/

namespace Sys2Proof.Tests

open Sys2Proof
open Sys2Proof.Machine

/-! ## Well-formedness and decoding -/

/-- R16: 3 names LOOK, so it is no unknown command. -/
theorem test_wf_refuses_named_command : WellFormed (.unknownCommand 3) = false := by decide

theorem test_wf_unknown_boundaries :
    WellFormed (.unknownCommand 0) = true ∧ WellFormed (.unknownCommand 1) = false
      ∧ WellFormed (.unknownCommand 8) = false ∧ WellFormed (.unknownCommand 9) = true := by decide

/-- R16: a 32-bit write to AREA is not an ignored write. -/
theorem test_wf_refuses_area_write : WellFormed (.registerWriteIgnored 0 32 0) = false := by decide

/-- 00_scope, Addresses: the host writes no byte at or above 1000000h. -/
theorem test_wf_refuses_write_out_of_reach :
    WellFormed (.pinReset [(0x1000000, 1)]) = false ∧ WellFormed (.burstComplete [(0x1000000, 1)]) = false
      ∧ WellFormed (.busError [(0x1000000, 1)]) = false ∧ WellFormed (.busError [(0xFFFFFF, 1)]) = true := by
  decide

/-- The table gives no row any bits. -/
theorem test_no_word_spells_a_command : decodeTableWord 32 1 = none ∧ decodeTableWord 0 0 = none := by decide

/-! ## Burn control -/

/-- 6.3, a burn at ordinary values: T1 = 656, Ft = 233, T = 597. -/
def ordinaryHeat : List Nat := [300, 300, 300, 300, 300, 300, 300, 300, 300, 240, 220, 200, 190, 185, 182, 180, 100]

theorem test_burn_ordinary :
    darkenedTime 600 18 = 656 ∧ heatFactor ordinaryHeat 600 = 233
      ∧ ({ BurnValues.lowest with nominalBurn := 600, heatTable := ordinaryHeat } : BurnValues).burnTime 18 600 800
        = 597 := by decide

/-- 6.5, burns at the limits: cold head, top code, lower clamp, upper clamp. -/
theorem test_burn_limits :
    ({ BurnValues.lowest with nominalBurn := 1000, heatTable := ordinaryHeat } : BurnValues).burnTime 15 0 1000 = 990
      ∧ heatFactor ordinaryHeat 1023 = 101
      ∧ ({ BurnValues.lowest with nominalBurn := 50, heatTable := List.replicate 17 100 } : BurnValues).burnTime 0 0 800
        = 20
      ∧ ({ BurnValues.lowest with nominalBurn := 4000, heatTable := List.replicate 17 256 } : BurnValues).burnTime
        30 0 250 = 240 := by decide

/-- 6.5, a split line: the phase times, and the sum S. -/
theorem test_phases_split_line :
    phaseTimes [256, 224, 192, 160] 597 = [74, 74, 74, 373]
      ∧ phaseTimes [256, 224, 192, 160] 240 = [30, 30, 30, 150] ∧ phaseTimes [0, 0, 0, 0] 597 = [0, 0, 0, 0] := by
  decide

/-- 6.5: the joins of a split line, and of the empty segment case, at Power Budget 640. -/
theorem test_groups_join :
    ((([] : List BurnGroup) |> joinGroup 640 0 200 |> joinGroup 640 1 250 |> joinGroup 640 2 150
        |> joinGroup 640 3 100).map (·.segments)) = [[0, 1, 2], [3]]
      ∧ ((([] : List BurnGroup) |> joinGroup 640 0 320 |> joinGroup 640 1 0 |> joinGroup 640 2 320
        |> joinGroup 640 3 320).map (·.segments)) = [[0, 1, 2], [3]] := by decide

/-- 6.6, the sums over two lines: 10947 after line 0 and 33987 after line 1. -/
def line0 : List Byte := List.replicate 12 0 ++ [0xC0, 0x03] ++ List.replicate 146 0

theorem test_signature_line0 : addToSums line0 (0, 0) = (195, 42) := by decide +kernel

theorem test_signature_line1 :
    addToSums (List.replicate 160 0) (195, 42) = (195, 132) ∧ 256 * 42 + 195 = 10947 ∧ 256 * 132 + 195 = 33987 := by
  decide +kernel

/-- R121: dot 8k is the most significant bit of byte k. -/
theorem test_row_bytes : (rowBytes (dotsOf fun d => d == 96 || d == 97 || d == 110 || d == 111)).take 14
    = List.replicate 12 0 ++ [0xC0, 0x03] := by decide +kernel

/-- 6.2, the classes of one dot: class 0 in phase A, class 1 from B, class 2 from C, class 3 in D alone. -/
theorem test_phase_dots :
    ((List.range 4).map fun ph => hasDot (phaseDots 0 0 ph) 5) = [true, true, true, true]
      ∧ ((List.range 4).map fun ph => hasDot (phaseDots 0 (1 <<< 5) ph) 5) = [false, true, true, true]
      ∧ ((List.range 4).map fun ph => hasDot (phaseDots (1 <<< 5) 0 ph) 5) = [false, false, true, true]
      ∧ ((List.range 4).map fun ph => hasDot (phaseDots (1 <<< 5) (1 <<< 5) ph) 5) = [false, false, false, true] := by
  decide +kernel

/-! ## Serial fields, glyphs and symbols -/

/-- R98, R99: counting around 10^Digits both ways, and suppressed leading zeros. -/
def serial (digits start : Nat) (step : Int) (suppress : Bool) : SerialSpec :=
  { digits := digits, suppressLeading := suppress, padCode := 32, digitBase := 48, step := step, start := start }

theorem test_serial_values :
    (serial 4 9998 1 false).valueOf 3 = 0 ∧ (serial 3 1 (-2) false).valueOf 2 = 999
      ∧ (serial 4 7 1 true).codes 1 = [32, 32, 32, 55] ∧ (serial 3 0 1 true).codes 1 = [32, 32, 48]
      ∧ (serial 3 105 0 true).codes 1 = [49, 48, 53] := by decide

/-- R92: below First Code, past the last glyph, and a Default Glyph out of range. -/
theorem test_glyph_lookup :
    ({ count := 10, first := 48, height := 8, default := 3 } : GlyphHeader).lookup 47 = 3
      ∧ ({ count := 10, first := 48, height := 8, default := 3 } : GlyphHeader).lookup 57 = 9
      ∧ ({ count := 10, first := 48, height := 8, default := 10 } : GlyphHeader).lookup 58 = 0 := by decide

/-- R76, R77: bar reduction takes the last cells of a bar, and the first ones of a reversed bar. -/
def symbol (reverse : Bool) : BarSpec :=
  { orientation := .picket, moduleWidth := 3, reduction := 1, quietZone := 2, maxShift := 0, clearQuiet := false
    reverse := reverse, barLength := 10, widths := [2, 1, 1, 2, 3] }

theorem test_bar_spans :
    (symbol false).bars = [⟨0, 4⟩, ⟨9, 10⟩, ⟨18, 25⟩] ∧ (symbol true).bars = [⟨22, 26⟩, ⟨16, 17⟩, ⟨1, 8⟩]
      ∧ (symbol false).quiets = [⟨-6, -1⟩, ⟨27, 32⟩] := by decide

/-- R85: the order of the candidate shifts. -/
theorem test_shift_order : shiftsUpTo 3 = [1, -1, 2, -2, 3, -3] := by decide

/-- R61: a border of 1 on a 4 by 4 rule leaves the inside transparent; Border 0 draws it whole. -/
theorem test_rule_border :
    ruleBit 1 4 4 1 1 = false ∧ ruleBit 1 4 4 3 2 = true ∧ ruleBit 0 4 4 1 1 = true ∧ ruleBit 2 4 4 1 1 = true := by
  decide

/-- R53: TURN maps physical line 0 to the last label line and flips the column; with MIRROR it does not. -/
def turned (mirror : Bool) : CopyGeometry :=
  { copy := 1, labelLength := 100, labelWidth := 80, leftOffset := 10, mirror := mirror, turn := true }

theorem test_orientation :
    (turned false).labelLine 0 = 99 ∧ (turned false).labelColumn 0 = 79 ∧ (turned true).labelColumn 0 = 0 := by decide

/-! ## Sensors and protection -/

/-- 8.3, one gap passing the sensor: L = 407 and U = 533; the lone sample at 101 is dropped, the gap confirms
at 104, and the top edge at 110 comes with the sample of 111. -/
def sensor : SensorScanner :=
  { State.reset.chip.scanner with
    mediaState := .label, calibratedThreshold := 470, calibratedHysteresis := 63 }

theorem test_sides :
    sensor.sideOf 533 = none ∧ sensor.sideOf 534 = some .gap ∧ sensor.sideOf 407 = none
      ∧ sensor.sideOf 406 = some .label := by decide

theorem test_gap_passes :
    let a := (sensor.classify 540 101).1
    let b := (a.classify 520 102).1
    let c := (b.classify 600 103).1
    let d := (c.classify 700 104).1
    let e := (d.classify 300 110).1
    a.candidate = some (.gap, 101) ∧ b.candidate = none ∧ d.mediaState = .gap
      ∧ (e.classify 190 111).2 = some 110 ∧ (e.classify 190 111).1.mediaState = .label := by decide

/-- R158: forward, backward and glitch. -/
theorem test_encoder :
    (State.reset.chip.encoderMoved false true).scanner.ribbonCount = 1
      ∧ (State.reset.chip.encoderMoved true false).scanner.ribbonCount = -1
      ∧ (State.reset.chip.encoderMoved true true).scanner.ribbonCount = 0 := by decide

/-- R129: comparison across the wrap. -/
theorem test_position_wraps :
    isAfter 2 0xFFFFFFFE = true ∧ isAfter 0xFFFFFFFE 2 = false ∧ isAfter 5 5 = false := by decide

/-- 1.9, Table 1-11's neighbour, the arbiter's worked example: with all three waiting and the Composer served
last, level 12 takes Engine Control, then Job; level 7 takes the Composer. -/
def issuedRead (p : Purpose) (l : Location) (n addr : Nat) : Access :=
  { readAccess p l n with issued := true, addr := addr }

def allWaiting : MemoryPort :=
  { MemoryPort.reset with
    jobQueue := [issuedRead .lookLink (.area 0) 4 0], composerQueue := [issuedRead .source (.at 64) 4 64]
    engineQueue := [issuedRead .loadBadDots (.area 0x1B0) 160 0x1B0], lastServed := .composer }

theorem test_arbiter :
    allWaiting.choose 12 = some .engine ∧ { allWaiting with lastServed := .engine }.choose 11 = some .job
      ∧ { allWaiting with lastServed := .job }.choose 7 = some .composer
      ∧ { allWaiting with lastServed := .composer }.choose 9 = some .engine := by decide

/-- R18: a result block at 1020h is one burst, and at 1010h two. -/
theorem test_bursts : burstLength 0x1040 32 = 32 ∧ burstLength 0x1030 32 = 16 ∧ burstLength 0x1040 16 = 16 := by decide

/-- R5, R6: what a block of zeros loads as. -/
theorem test_settings_of_zeros :
    (settingsOf []).mediaKind = .gap ∧ (settingsOf []).speedTable = List.replicate 8 250
      ∧ (settingsOf []).powerBudget = 320 ∧ (settingsOf []).testPulse = 2 ∧ (settingsOf []).topAdjust = 0 := by
  decide

/-- R5: a table is made non-increasing. -/
theorem test_falling_table : nonIncreasing [800, 900, 700, 750] = [800, 800, 700, 700] := by decide

/-- R26 step 1: an undefined Kind is refused before anything else. -/
theorem test_validate_refuses_kind : validate 0x1000 (List.replicate 64 0) = .refused .badKind := by decide

/-- R11, Table 1-5: a refused ticket's result block. -/
theorem test_result_block :
    resultBytes { RunningResult.zero with refuseReason := .badSize } = [0, 2] ++ List.replicate 30 0 := by decide

/-- A read after a write, and the removal of a byte written as 0 (log entry 5). -/
theorem test_memory :
    Memory.write [(3, 7)] 2 9 = [(2, 9), (3, 7)] ∧ Memory.write [(2, 9), (3, 7)] 2 0 = [(3, 7)]
      ∧ Memory.read [(3, 7)] 4 = 0 := by decide


/-- R156: a handover at the end of LOADING leaves the candidate; one at a start with another Media Kind drops it. -/
theorem test_meets_media_kind :
    (({ sensor with candidate := some (.gap, 5) }).meetKind .mark).candidate = none
      ∧ (({ sensor with candidate := some (.gap, 5) }).meetKind .gap).candidate = some (.gap, 5)
      ∧ (({ State.reset.chip with scanner := { sensor with candidate := some (.gap, 5) } } : Chip).handover
          (settingsOf [1]) 0).scanner.candidate = some (.gap, 5) := by decide +kernel

/-- R163: the phase is kept behind a CLOSED gate, and the next step continues from it. -/
theorem test_motor_phase :
    let c := State.reset.chip
    c.motorPhases = none ∧ (c.motion.stepForward 0 0).phase = 1 ∧ ((c.motion.stepForward 0 0).stepBack 9).phase = 0
      ∧ (({ c with motion := { c.motion with phase := 7 } } : Chip).softReset).motion.phase = 7 := by decide

/-- R23: a look that the halt ends before its link was read leaves no last look that read a zero link. -/
theorem test_look_lost_at_halt :
    let j := { State.reset.chip.job with activity := .look true, lastLookZero := true }
    j.suspend.lastLookZero = false ∧ j.suspend.activity = .none
      ∧ ({ j with activity := .none }).suspend.lastLookZero = true := by decide

/-- R147: STOPPING does not end while a backfeed given before STOP still waits for its first step. -/
theorem test_stopping_waits_for_operation :
    let c := { State.reset.chip with engine := { State.reset.chip.engine with state := .stopping } }
    c.stoppingDone = true
      ∧ ({ c with motion := { c.motion with operation := .alignBack false } }).stoppingDone = false := by decide

/-- R179, R178: when a Fault Record write of an earlier halt fails, the waiting write of the new halt's first cause
stays, and a waiting rewrite does not. -/
theorem test_failed_record_keeps_new_write :
    let c := { State.reset.chip with engine := { State.reset.chip.engine with firstCause := some .mediaOut } }
    let waits (p : Purpose) : Chip := { c with port := { c.port with engineQueue := [recordAccess p] } }
    (waits .faultRecord).recordFailed.port.engineQueue = [recordAccess .faultRecord]
      ∧ (waits .faultRewrite).recordFailed.port.engineQueue = []
      ∧ ({ waits .faultRewrite with engine := State.reset.chip.engine }.fault .mediaOut).port.engineQueue
        = [recordAccess .faultRecord] := by decide

/-- R161: the THERM code of the first conversion is taken 10 µs after the reset, and SUPPLY follows at 20. -/
theorem test_first_conversion :
    let c := State.reset.chip.conversionDone 5
    c.now = 10 ∧ c.scanner.therm = 5 ∧ c.scanner.converter = .converting .supply 20 := by decide

/-- R18: 40 outcome writes that would reach beyond 1000000h all end in one step, none issued. -/
theorem test_unreachable_end_at_once :
    let c := { State.reset.chip with
      engine := { State.reset.chip.engine with area := 0x00FFFFFC }
      port := { State.reset.chip.port with
        engineQueue := List.replicate 40 (writeAccess .publishAbandoned (.area 0x00A) [2]) } }
    c.settlePort.port.engineQueue = [] ∧ c.settlePort.engine.firstCause = some .memoryFault := by decide +kernel

/-- R134, log entry 57: a Ramp Lines that the ramp count has already reached raises the step at once. -/
theorem test_ramp_lines_passed :
    let m := { MotionController.reset with
      rampCount := 5, values := { MotionValues.lowest with rampLines := 3, target := 4 } }
    (m.paceLine 16).speedStep = 1 ∧ (m.paceLine 16).rampCount = 0 ∧ (m.paceFeed).speedStep = 1 := by decide

/-! ## Witnesses: for every obligation with hypotheses, a state and operands that meet them -/

/-- A machine right after reset but for its blocks, as `f` makes them of those right after reset. -/
def part (f : Chip → Chip) : State := { State.reset with chip := f State.reset.chip }

/-- The same, with the engine in state `e`. -/
def engineIn (e : EngineState) (f : Chip → Chip := id) : State :=
  part fun c => f { c with engine := { c.engine with state := e } }

/-- A burst in flight of a requester, `bytes` written at `addr`, or `n` bytes read where none are written. -/
def burst (q : Requester) (p : Purpose) (addr n : Nat) (bytes : List Byte) : Burst where
  requester := q
  purpose := p
  start := addr
  addr := addr
  length := n
  write := decide (bytes ≠ [])
  data := bytes
  withdrawn := false

/-- A machine in RUNNING whose Job Controller has a burst in flight for the access `a`. -/
def jobBurst (a : Access) (f : Chip → Chip := id) : State :=
  engineIn .running fun c => f { c with port := { c.port with
    jobQueue := [a], inFlight := some (burst .job a.purpose a.addr a.length a.data) } }

def aTicket : Ticket where
  addr := 0x2000
  bytes := []
  kind := .print
  mirror := false
  turn := false
  reprintOnFault := true
  feedInLabels := false
  copies := 3
  labelLength := 100
  labelWidth := 80
  leftOffset := 10
  darkness := none
  speed := none
  feedCount := 1
  objects := []

def aLine (last : Bool) : LineRecord where
  dots := 5
  copy := 1
  line := 7
  first := false
  last := last

def aPlan : BurnPlan where
  burnTime := 100
  phases := [10, 10, 10, 70]
  groups := [⟨[0, 1, 2, 3], 2⟩]
  previous := 0
  before := 0
  now := ⟨0, 2, 10⟩
  phaseEnd := 400
  left := [⟨0, 3, 70⟩]

theorem witness_EveryCommandGoesOn (ws : HostWrites) :
    Instr.start ≠ .burstComplete ws ∧ Instr.start ≠ .busError ws ∧ Instr.start ≠ .pinReset ws := by simp

/-- Job memory with bytes in it, the AREA of 1000h, a line in the store, an edge queued, a count at its limit and
the supply settling: what each of the invariants asks, in a state with a command that steps. -/
def invariantState : State :=
  { engineIn .running fun c => { c with
      engine := { c.engine with area := 0x1000, areaInUse := 0x1000 }
      composer := { c.composer with store := List.replicate 32 (aLine false) }
      motion := { c.motion with edgeQueue := List.replicate 8 5 }
      job := { c.job with result := { c.job.result with burnStretches := 255 } }
      scanner := { c.scanner with headClosed := ⟨true, true, 0⟩ }
      protection := { c.protection with supply := .settling 9 } } with
    memory := [(2, 9), (3, 7)], pending := [.supplySettled] }

theorem witness_invariants :
    invariantState.memoryWf = true ∧ invariantState.chip.engine.areasLegal = true
      ∧ invariantState.chip.storeInRoom = true ∧ invariantState.chip.edgesInRoom = true
      ∧ invariantState.chip.job.result.saturated = true ∧ invariantState.chip.supplySound = true
      ∧ goesOn (step invariantState) = true := by decide +kernel

theorem witness_ResetPinHoldsPart : ({ State.reset with resetPin := true }).resetPin = true
    ∧ (∀ ws, Instr.start ≠ .pinReset ws) ∧ Instr.start ≠ .resetPinRelease
    ∧ (∀ a b, Instr.start ≠ .encoderTransition a b) ∧ ∀ k b, Instr.start ≠ .switchInputChange k b := by simp

/-- A write burst of two bytes at 40h. -/
def writing : State :=
  jobBurst { writeAccess .heldWrite (.at 0x40) [7, 9] with issued := true, addr := 0x40 }

/-- A read burst of four bytes at 40h. -/
def reading : State := jobBurst (issuedRead .lookLink (.area 0) 4 0x40)

theorem witness_PinResetBringsResetValues :
    reading.chip.port.inFlight.map (·.write) = some false
      ∧ writing.chip.port.inFlight.map (fun b => (b.addr, b.data.length)) = some (0x40, 2)
      ∧ 0x3F < 0x40 ∧ 0x40 + 2 ≤ 0x42 ∧ ({ State.reset with resetPin := true }).resetPin = true
      ∧ writing.chip.port.inFlight.map (·.write) = some true ∧ writing.memoryWf = true ∧ 1 < 2 := by decide

/-! ### The register window -/

theorem witness_RefusedWrite_ignored :
    WellFormed (.registerWriteIgnored 8 32 1) = true ∧ WellFormed (.registerWriteIgnored 0 31 1) = true := by decide

theorem witness_RefusedWrite_states :
    (engineIn .loading).resetPin = false ∧ (engineIn .loading).chip.engine.state ≠ .stopped
      ∧ (engineIn .stopping).chip.engine.state = .stopping ∧ (engineIn .halted).chip.engine.state = .halted
      ∧ State.reset.resetPin = false ∧ State.reset.chip.engine.state = .stopped
      ∧ (0 : Word).toNat = 0 ∧ 8 < (9 : Word).toNat := by decide

/-- HALTED with the head closed and the limits held, the thermistor code at Trip Limit. -/
def hot : State := engineIn .halted fun c => { c with
  scanner := { c.scanner with headClosed := ⟨true, true, 0⟩, therm := 900 }
  protection := { c.protection with limits := some ⟨800, 700, 900, 100⟩ } }

theorem witness_RefusedWrite_resume :
    hot.resetPin = false ∧ hot.chip.protection.limits = some ⟨800, 700, 900, 100⟩
      ∧ 900 ≤ hot.chip.scanner.therm.toNat ∧ (engineIn .halted).chip.scanner.headClosed.debounced = false := by decide

/-- RUNNING and STILL with job state PRINT; a dot test is refused here, and while one is in hand. -/
theorem witness_RefusedWrite_dotTest :
    let s := engineIn .running fun c => { c with job := { c.job with jobState := .print } }
    let u := engineIn .running fun c => { c with protection := { c.protection with
      test := .testing ⟨2, 0, 100, 3, 0, .waiting⟩ } }
    s.resetPin = false ∧ s.chip.engine.state = .running ∧ s.chip.job.jobState ≠ .dry ∧ s.chip.job.jobState ≠ .ready
      ∧ u.resetPin = false ∧ u.chip.protection.test.isTesting = true := by decide

theorem witness_AreaWrite : State.reset.resetPin = false ∧ State.reset.chip.engine.state = .stopped := by decide

theorem witness_EventsWrite : State.reset.resetPin = false ∧ 6 < 7 := by decide

/-! ### Commands of the host -/

theorem witness_Start :
    let s := State.reset
    s.resetPin = false ∧ s.chip.engine.state = .stopped ∧ s.chip.protection.test = .idle
      ∧ s.chip.protection.gate = .closed ∧ s.chip.portInReach = true ∧ s.chip.engine.areaInReach = true := by decide

theorem witness_Stop :
    let s := engineIn .running fun c => { c with job := { c.job with activity := .fetch } }
    s.resetPin = false ∧ s.chip.engine.state = .running ∧ s.chip.job.jobState = .dry
      ∧ s.chip.protection.test = .idle ∧ (∀ g, s.chip.job.activity ≠ .promotion g) ∧ s.chip.portInReach = true := by
  refine ⟨by decide, by decide, by decide, by decide, ?_, by decide⟩
  intro g h; cases h

/-- RUNNING and DRY with the look timer running. -/
def dry : State := engineIn .running fun c => { c with job := { c.job with lookTimer := some 9 } }

/-- The same, with a look in flight. -/
def looking : State := engineIn .running fun c => { c with job := { c.job with activity := .look false } }

/-- RUNNING with a copy at PRINT and the next-ticket buffer full: no look is wanted. -/
def busy : State := engineIn .running fun c => { c with
  job := { c.job with jobState := .print, current := some aTicket, nextBuffer := .full 0x3000 [] (.refused .badSize) } }

theorem witness_Look :
    dry.resetPin = false ∧ dry.chip.engine.state = .running ∧ dry.chip.portInReach = true
      ∧ dry.chip.engine.areaInReach = true ∧ dry.chip.engine.locate dry.chip.job.link + 4 ≤ Config.memoryReach
      ∧ dry.chip.waits = true ∧ dry.chip.job.activity = .none ∧ dry.chip.job.lookTimer = some 9 := by decide

theorem witness_Look_remembered :
    looking.resetPin = false ∧ looking.chip.engine.state = .running ∧ looking.chip.portInReach = true
      ∧ looking.chip.engine.areaInReach = true
      ∧ looking.chip.engine.locate looking.chip.job.link + 4 ≤ Config.memoryReach
      ∧ looking.chip.job.activity = .look false := by decide

theorem witness_Look_nothing :
    busy.resetPin = false ∧ busy.chip.engine.state = .running ∧ busy.chip.portInReach = true
      ∧ busy.chip.engine.areaInReach = true ∧ busy.chip.engine.locate busy.chip.job.link + 4 ≤ Config.memoryReach
      ∧ (∀ again, busy.chip.job.activity ≠ .look again) ∧ busy.chip.waits = false := by
  refine ⟨by decide, by decide, by decide, by decide, by decide, ?_, by decide⟩
  intro again h; cases h

/-- HALTED from RUNNING, the head closed, the Composer SUSPENDED, and `f` of the Job Controller. -/
def halted (f : JobController → JobController) : State := engineIn .halted fun c => { c with
  engine := { c.engine with haltedFrom := some .running, firstCause := some .headOpen }
  scanner := { c.scanner with headClosed := ⟨true, true, 0⟩ }
  composer := { c.composer with state := .suspended }
  job := f c.job }

theorem witness_Resume :
    let s := halted id
    s.resetPin = false ∧ s.chip.engine.state = .halted ∧ s.chip.engine.stopWaiting = false
      ∧ s.chip.tripStands = false ∧ s.chip.engine.haltedFrom ≠ some .loading
      ∧ s.chip.composer.state = .suspended ∧ s.chip.protection.supply = .off ∧ s.chip.job.current = none
      ∧ s.chip.job.ending = none ∧ s.chip.job.heldWriteFailed = false ∧ s.chip.job.jobState = .dry
      ∧ s.chip.job.nextBuffer = .empty ∧ s.chip.job.activity = .none
      ∧ s.chip.portInReach = true ∧ s.chip.engine.areaInReach = true := by decide

/-- A FEED ticket's end write-back, in flight at the halt. -/
def anEnding : EndWriteBack where
  ticket := { aTicket with kind := .feed }
  state := .done
  result := { RunningResult.zero with outcome := .ok }
  failed := false
  remake := true

theorem witness_Resume_ending :
    let s := halted fun j => { j with ending := some anEnding }
    s.resetPin = false ∧ s.chip.engine.state = .halted ∧ s.chip.engine.stopWaiting = false
      ∧ s.chip.tripStands = false ∧ s.chip.engine.haltedFrom ≠ some .loading
      ∧ s.chip.composer.state = .suspended ∧ s.chip.protection.supply = .off ∧ s.chip.job.current = none
      ∧ s.chip.job.heldWriteFailed = false ∧ s.chip.job.jobState = .dry
      ∧ s.chip.job.nextBuffer = .empty ∧ s.chip.job.activity = .none
      ∧ s.chip.portInReach = true ∧ s.chip.engine.areaInReach = true
      ∧ s.chip.job.ending = some anEnding ∧ anEnding.remake = true
      ∧ anEnding.ticket.addr.toNat + 0x40 ≤ Config.memoryReach
      ∧ (∀ n ∈ nextValues anEnding.ticket anEnding.result.copiesCompleted,
          anEnding.ticket.addr.toNat + n.1 + 0x1C ≤ Config.memoryReach) := by decide

theorem witness_ResumeReprints :
    let s := halted fun j => { j with
      current := some aTicket, faulted := true, copyInHand := 2, jobState := .print, held := 0x2000 }
    s.resetPin = false ∧ s.chip.engine.state = .halted ∧ s.chip.engine.stopWaiting = false
      ∧ s.chip.tripStands = false ∧ s.chip.engine.haltedFrom ≠ some .loading
      ∧ s.chip.composer.state = .suspended ∧ s.chip.protection.supply = .off
      ∧ s.chip.job.current = some aTicket ∧ aTicket.kind = .print ∧ aTicket.reprintOnFault = true
      ∧ s.chip.job.faulted = true ∧ s.chip.job.ending = none ∧ s.chip.job.heldWriteFailed = false
      ∧ s.chip.job.nextBuffer = .empty ∧ s.chip.job.activity = .none ∧ s.chip.portInReach = true
      ∧ s.chip.engine.areaInReach = true ∧ s.chip.engine.locate s.chip.job.link + 4 ≤ Config.memoryReach := by
  decide

theorem witness_CancelTicket :
    let s := engineIn .running fun c => { c with
      job := { c.job with current := some aTicket, jobState := .ready, copyInHand := 1 } }
    s.resetPin = false ∧ s.chip.engine.state = .running ∧ s.chip.portInReach = true
      ∧ s.chip.job.current = some aTicket ∧ s.chip.job.jobState = .ready ∧ s.chip.motion.state = .still
      ∧ s.chip.motion.operation = .none ∧ s.chip.composer.state ≠ .suspended
      ∧ aTicket.addr.toNat + 0x40 ≤ Config.memoryReach
      ∧ (∀ n ∈ nextValues aTicket s.chip.job.result.copiesCompleted,
          aTicket.addr.toNat + n.1 + 0x1C ≤ Config.memoryReach)
      ∧ (engineIn .running).chip.job.current = none := by decide

theorem witness_CancelChain :
    let s := engineIn .running fun c => { c with job := { c.job with activity := .look true } }
    s.resetPin = false ∧ s.chip.engine.state = .running ∧ s.chip.job.current = none ∧ s.chip.job.ending = none
      ∧ (∀ g, s.chip.job.activity ≠ .promotion g) ∧ s.chip.job.activity ≠ .walk ∧ s.chip.portInReach = true
      ∧ s.chip.engine.locate s.chip.job.link + 4 ≤ Config.memoryReach := by
  refine ⟨by decide, by decide, by decide, by decide, ?_, by decide, by decide, by decide⟩
  intro g h; cases h

theorem witness_SoftReset :
    State.reset.resetPin = false ∧ State.reset.chip.port.inFlight = none
      ∧ ({ writing with resetWaiting := true }).resetPin = false
      ∧ ({ writing with resetWaiting := true }).chip.port.inFlight = some (burst .job .heldWrite 0x40 2 [7, 9])
      ∧ ({ writing with resetWaiting := true }).resetWaiting = true
      ∧ ({ writing with resetWaiting := true }).memoryWf = true
      ∧ (burst .job .heldWrite 0x40 2 [7, 9]).write = true ∧ 1 < (burst .job .heldWrite 0x40 2 [7, 9]).data.length
      ∧ reading.chip.port.inFlight.map (·.write) = some false := by decide

theorem witness_StoppingEnds :
    let s := engineIn .stopping
    s.resetPin = false ∧ s.chip.engine.state = .stopping ∧ s.chip.job.current = none ∧ s.chip.job.ending = none
      ∧ (∀ g, s.chip.job.activity ≠ .promotion g) ∧ s.chip.job.activity ≠ .walk
      ∧ s.chip.job.jobState ≠ .print ∧ s.chip.job.jobState ≠ .feeding ∧ s.chip.job.jobState ≠ .calibrating
      ∧ s.chip.motion.state = .still ∧ s.chip.motion.operation = .none ∧ s.chip.protection.test = .idle
      ∧ ({ s.chip with engine := { s.chip.engine with state := .stopped } } : Chip).portInReach = true := by
  refine ⟨by decide, by decide, by decide, by decide, ?_, by decide, by decide, by decide, by decide, by decide,
    by decide, by decide, by decide⟩
  intro g h; cases h

/-! ### Job memory -/

theorem witness_WriteBurst :
    let b := burst .job .heldWrite 0x40 2 [7, 9]
    writing.resetPin = false ∧ writing.chip.port.inFlight = some b ∧ b.write = true ∧ writing.memoryWf = true
      ∧ b.addr + b.data.length ≤ Config.memoryReach ∧ 0x3F < b.addr ∧ b.addr + b.data.length ≤ 0x42 := by decide

/-- A look's read of Chain Head in flight in RUNNING and DRY. -/
def linkBeingRead : State :=
  jobBurst (issuedRead .lookLink (.area 0x200) 4 0x200) fun c => { c with job := { c.job with activity := .look false } }

/-- The host writes `v` there just before the read. -/
def linkWrites (v : Nat) : HostWrites := (leBytes 4 v).zipIdx.map fun x => (0x200 + x.2, x.1)

def linkValue (v : Nat) : Word :=
  BitVec.ofNat 32 (leNat (Memory.readRun (Memory.hostWrite linkBeingRead.memory (linkWrites v)) 0x200 4))

theorem witness_LookFollowsGoodLink :
    let s := linkBeingRead
    let a := issuedRead .lookLink (.area 0x200) 4 0x200
    let b := burst .job .lookLink 0x200 4 []
    s.resetPin = false ∧ s.resetWaiting = false ∧ s.chip.port.inFlight = some b ∧ b.requester = .job
      ∧ b.write = false ∧ b.withdrawn = false ∧ b.length = 4 ∧ s.chip.port.jobQueue = [a]
      ∧ a.purpose = .lookLink ∧ a.write = false ∧ a.carried = 0 ∧ a.length = 4 ∧ a.data = []
      ∧ s.chip.engine.state = .running ∧ s.chip.engine.firstCause = none ∧ s.chip.job.activity = .look false
      ∧ s.chip.portInReach = true ∧ s.chip.engine.areaInReach = true := by decide +kernel

/-- A good link, 2000h and the highest; one that may not be followed, 2001h; and zero. -/
theorem witness_LookFollowsGoodLink_values :
    linkValue 0x2000 ≠ 0 ∧ linkGood (linkValue 0x2000) = true
      ∧ (linkValue 0x2000).toNat + 32 ≤ Config.memoryReach
      ∧ linkValue 0x2001 ≠ 0 ∧ linkGood (linkValue 0x2001) = false ∧ linkValue 0 = 0
      ∧ linkBeingRead.chip.job.jobState = .dry ∧ linkBeingRead.chip.job.dryMark = false := by decide +kernel

theorem witness_BusErrorOnSource :
    let b := burst .composer .source 0x40 4 []
    let s := engineIn .running fun c => { c with port := { c.port with
      inFlight := some b, composerQueue := [issuedRead .source (.at 0x40) 4 0x40] } }
    s.resetPin = false ∧ s.resetWaiting = false ∧ s.chip.port.inFlight = some b ∧ b.requester = .composer
      ∧ b.purpose = .source ∧ b.write = false ∧ b.withdrawn = false ∧ s.chip.engine.state = .running
      ∧ s.chip.engine.firstCause = none ∧ s.chip.portInReach = true ∧ s.chip.engine.areaInReach = true
      ∧ s.chip.port.engineQueue = [] ∧ s.chip.protection.test = .idle := by decide

/-- A run of 100 bytes from 3Fh, of which the first burst carries one byte. -/
theorem witness_Bursts :
    let a := issuedRead .source (.at 0x3F) 100 0x3F
    a.carried < a.length ∧ a.carried + (burstOf .composer a).length < a.length
      ∧ (burstOf .composer a).length = 1 := by decide

/-- A burst in flight; none waiting; one waiting; and all three waiting, below 8 lines and at 8 lines. -/
theorem witness_Arbiter :
    let alone : MemoryPort := { MemoryPort.reset with jobQueue := [issuedRead .lookLink (.area 0) 4 0] }
    reading.chip.port.inFlight ≠ none
      ∧ MemoryPort.reset.inFlight = none ∧ ([Requester.job, .composer, .engine].all fun q => !MemoryPort.reset.waiting q)
      ∧ alone.inFlight = none ∧ alone.waiting .job = true ∧ alone.waiting .composer = false
      ∧ alone.waiting .engine = false
      ∧ allWaiting.inFlight = none ∧ allWaiting.waiting .composer = true ∧ 7 < 8
      ∧ ¬ (allWaiting.waiting .composer = true ∧ 8 < 8) := by decide

/-! ### Tickets and copies -/

theorem witness_Promotion :
    let s := engineIn .running fun c => { c with
      job := { c.job with nextBuffer := .full 0x2000 [] (.valid aTicket) } }
    s.resetPin = false ∧ s.chip.job.nextBuffer = .full 0x2000 [] (.valid aTicket) ∧ s.chip.job.current = none
      ∧ s.chip.job.ending = none ∧ s.chip.engine.state = .running ∧ s.chip.job.activity = .none
      ∧ (0x2000 : Word).toNat + 5 ≤ Config.memoryReach ∧ s.chip.portInReach = true := by decide

theorem witness_TakenWrite :
    let a := { writeAccess .takenState (.at 0x2004) [3] with issued := true, addr := 0x2004 }
    let b := burst .job .takenState 0x2004 1 [3]
    let s := jobBurst a fun c => { c with job := { c.job with
      nextBuffer := .full 0x2000 [] (.valid aTicket), activity := .promotion .taking } }
    s.resetPin = false ∧ s.resetWaiting = false ∧ s.chip.port.inFlight = some b ∧ b.requester = .job
      ∧ b.write = true ∧ b.withdrawn = false ∧ s.chip.port.jobQueue = [a] ∧ a.purpose = .takenState
      ∧ a.write = true ∧ a.length ≤ a.carried + b.length
      ∧ s.chip.job.nextBuffer = .full 0x2000 [] (.valid aTicket) ∧ aTicket.kind = .print
      ∧ s.chip.job.current = none ∧ s.chip.job.ending = none ∧ s.chip.job.activity = .promotion .taking
      ∧ s.chip.job.promoStop = false ∧ s.chip.job.promoCancel = false ∧ s.chip.job.walkWaiting = false
      ∧ s.chip.job.jobState = .dry ∧ s.chip.engine.state = .running ∧ s.chip.composer.state = .idle
      ∧ aTicket.addr ≠ 0 ∧ aTicket.addr.toNat + 4 ≤ Config.memoryReach ∧ s.chip.portInReach = true
      ∧ s.chip.engine.areaInReach = true := by decide +kernel

theorem witness_StartsLoadSettings :
    let s := engineIn .running fun c => { c with
      job := { c.job with current := some aTicket, jobState := .ready, copyInHand := 1 }
      protection := { c.protection with gate := .opened } }
    s.resetPin = false ∧ s.chip.protection.test = .idle ∧ s.chip.portInReach = true
      ∧ s.chip.engine.areaInReach = true ∧ s.chip.job.current = some aTicket ∧ s.chip.engine.state = .running
      ∧ s.chip.job.jobState = .ready ∧ s.chip.protection.gate = .opened
      ∧ (aTicket.kind = .print → s.chip.protection.thermal = .normal) ∧ s.chip.job.starting = false
      ∧ s.chip.motion.state = .still ∧ State.reset.chip.engine.state = .stopped
      ∧ s.chip.protection.test.isTesting = false ∧ TestState.starting.isTesting = false := by decide

/-- A Settings Block of Media Kind CONTINUOUS, else of zeros. -/
def continuousValues : Settings := settingsOf [2]

theorem witness_UnchangedSettings :
    let a := issuedRead (.settingsFirst .copyStart) (.area 0x40) 4 0x40
    let b := burst .job (.settingsFirst .copyStart) 0x40 4 []
    let s := jobBurst a fun c => { c with
      job := { c.job with
        current := some aTicket, jobState := .ready, copyInHand := 2, starting := true
        snapshot := some continuousValues, lastGeneration := some 0 }
      scanner := { c.scanner with values := continuousValues.mediaValues }
      protection := { c.protection with gate := .opened } }
    s.resetPin = false ∧ s.resetWaiting = false ∧ s.chip.port.inFlight = some b ∧ b.requester = .job
      ∧ b.write = false ∧ b.withdrawn = false ∧ b.length = 4 ∧ s.chip.port.jobQueue = [a]
      ∧ a.purpose = .settingsFirst .copyStart ∧ a.write = false ∧ a.carried = 0 ∧ a.length = 4 ∧ a.data = []
      ∧ s.chip.job.current = some aTicket ∧ aTicket.kind = .print ∧ s.chip.engine.state = .running
      ∧ s.chip.job.jobState = .ready ∧ s.chip.protection.test = .idle ∧ s.chip.protection.gate = .opened
      ∧ s.chip.protection.thermal = .normal ∧ s.chip.job.copyInHand ≠ 1
      ∧ s.chip.job.snapshot = some continuousValues ∧ s.chip.job.lastGeneration = some 0
      ∧ BitVec.ofNat 32 (leNat (Memory.readRun (Memory.hostWrite s.memory []) b.addr 4)) = 0
      ∧ continuousValues.mediaKind = .continuous ∧ s.chip.scanner.values.mediaKind = .continuous
      ∧ s.chip.motion.presentedLines = 0 ∧ s.chip.motion.state = .still ∧ s.chip.motion.timer = .stopped
      ∧ s.chip.portInReach = true := by decide +kernel

/-! ### Composing lines -/

/-- A black rule of 8 by 3 dots whose lines are `entry` to `entry + 2`. -/
def aRule (index entry : Nat) : ObjectContext where
  index := index
  op := .set
  box := ⟨4, entry, 8, 3⟩
  firstColumn := 4
  entryLine := entry
  leaveLine := entry + 2
  rotation := .r0
  magX := 1
  magY := 1
  body := .rule 0
  held := none

/-- A ticket of two RULE objects on lines 50 to 52. -/
def ruleTicket : Ticket := { aTicket with objects :=
  [⟨.set, 4, 50, .r0, 1, 1, 0, .rule 8 3 0, 64⟩, ⟨.flip, 4, 50, .r0, 1, 1, 0, .rule 8 3 1, 84⟩] }

/-- A Composer about to draw line `line` of copy `copy` with two active objects and the entries `entries`, `n` lines
in its store. -/
def drawing (line n : Nat) (copy : Nat := 3) (entries : List PendingEntry := []) : State :=
  engineIn .running fun c => { c with
    job := { c.job with current := some ruleTicket, jobState := .print, copyInHand := copy }
    composer := { c.composer with
      state := .composing, copy := some ⟨copy, 100, 80, 10, false, false⟩, work := .ready, nextLine := line
      pendingList := entries, activeList := [aRule 5 (line - 3), aRule 6 (line - 1)]
      store := List.replicate n (aLine false) } }

/-- Line 50 with the store full and with room, without and with two RULEs that enter, and the last line of the last
copy and of the copy before it. -/
theorem witness_ComposeLine : ∀ x ∈ [(drawing 50 32, 3), (drawing 50 31, 3), (drawing 99 31, 3), (drawing 99 31 2, 2),
      (drawing 50 31 2 [⟨1, ⟨4, 50, 8, 3⟩, 14, 50, 52⟩, ⟨0, ⟨4, 50, 8, 3⟩, 14, 50, 52⟩], 2)],
    let s := x.1
    let g : CopyGeometry := ⟨x.2, 100, 80, 10, false, false⟩
    let p := s.chip.composer.nextLine
    let staying := s.chip.composer.activeList.filter fun o => decide (o.leaveLine + 1 ≠ p)
    let entering := s.chip.composer.pendingList.filter fun e => decide (e.entryLine = p)
    let contexts : List ObjectContext := entering.filterMap fun e => (ruleTicket.objects[e.index]?).map fun o =>
      contextOf o e (match o.body with
        | .rule _ _ border => .rule border
        | _ => .rule 0)
    let active := contexts.foldl (fun l c =>
      l.takeWhile (fun a => decide (a.index ≤ c.index)) ++ c :: l.dropWhile fun a => decide (a.index ≤ c.index)) staying
    s.resetPin = false ∧ s.chip.composer.copy = some g ∧ s.chip.composer.work = .ready
      ∧ s.chip.job.result.saturated = true ∧ s.chip.portInReach = true ∧ s.chip.engine.areaInReach = true
      ∧ s.chip.job.current = some ruleTicket
      ∧ (∀ e ∈ entering, (match (ruleTicket.objects[e.index]?).map (·.body) with
          | some (.rule _ _ _) => true
          | _ => false) = true ∧ staying.length + entering.length ≤ 24)
      ∧ (active.map (·.index)).Nodup ∧ active.length = 1 + entering.length
      ∧ ∀ o ∈ active, o.mustRead g p = none := by decide +kernel

/-- A set of 10 glyphs for the codes 250 to 259: its first and last code, the codes just outside, and glyph 6,
which no code names. -/
theorem witness_GlyphLookup :
    let h : GlyphHeader := { count := 10, first := 250, height := 8, default := 3 }
    let l : GlyphHeader := { count := 10, first := 48, height := 8, default := 10 }
    1 ≤ h.count ∧ 1 ≤ l.count ∧ l.first ≤ 48 ∧ 57 < l.first + l.count ∧ 47 < l.first ∧ l.first + l.count ≤ 58
      ∧ 6 < h.count ∧ 256 - h.first ≤ 6 ∧ h.first ≤ 255 ∧ h.carries 255 = true := by decide

theorem witness_SerialValues : (serial 1 9 (-9999) false).start < 10 ^ (serial 1 9 (-9999) false).digits ∧ 1 ≤ 1 := by
  decide

/-- Shift 1 of a symbol on columns 20 to 30, with Max Shift 1, stays within the label area. -/
theorem witness_ShiftSearch :
    let g : CopyGeometry := ⟨1, 100, 80, 10, false, false⟩
    (1 : Int).natAbs ≤ 1 ∧ shiftSkipped g ⟨20, 30⟩ 1 = false
      ∧ shiftScore g 0 [⟨20, 21⟩] 0 = (shiftSearch g 0 [⟨20, 21⟩] ⟨20, 30⟩ 1).2 := by decide +kernel

/-! ### Burning -/

/-- The Line Store's oldest line waits, and another is held in WAIT_ROOM. -/
theorem witness_LineTake :
    let s := engineIn .running fun c => { c with composer := { c.composer with
      state := .waitRoom, work := .hold (aLine false), store := [aLine false, aLine true] } }
    s.resetPin = false ∧ s.chip.burn.register = none ∧ s.chip.burn.link = .held
      ∧ s.chip.composer.store = [aLine false, aLine true] ∧ s.chip.portInReach = true
      ∧ s.chip.composer.work = .hold (aLine false) ∧ (aLine false).last = false := by decide +kernel

/-- R118, R125: the strobes of a burn stay on while a dot test waits for the head link. -/
theorem test_test_waits_for_burn :
    let p : TestProgress :=
      { pulse := 20, currentMin := 300, currentMax := 700, dot := 0, newSet := 0, step := .waiting }
    let c := { State.reset.chip with
      burn := { State.reset.chip.burn with plan := some aPlan, latched := some (aLine false) }
      protection := { State.reset.chip.protection with gate := .opened, test := .testing p } }
    c.energized = (aLine false).dots ∧ c.energized ≠ 0 := by decide +kernel

theorem witness_ShiftAndPhaseEnds :
    let s := part fun c => { c with burn := { c.burn with
      register := some (aLine false, .shifting 32), plan := some aPlan } }
    s.resetPin = false ∧ s.chip.burn.register = some (aLine false, .shifting 32) ∧ s.chip.burn.plan = some aPlan
      ∧ aPlan.left = [⟨0, 3, 70⟩] := by decide +kernel

/-- A burn of a line in progress. -/
def burning (last : Bool) : State := engineIn .running fun c => { c with
  job := { c.job with current := some aTicket, jobState := .print, copyInHand := 1 }
  burn := { c.burn with
    plan := some aPlan, latched := some (aLine last), register := some (aLine false, .shifted) } }

theorem witness_BurnEnd :
    (burning false).resetPin = false ∧ (burning false).chip.burn.plan = some aPlan
      ∧ (burning false).chip.burn.latched = some (aLine false) ∧ (aLine false).last = false
      ∧ (burning false).chip.burn.register ≠ none ∧ (burning false).chip.portInReach = true := by decide +kernel

theorem witness_LastBurn :
    let s := burning true
    s.resetPin = false ∧ s.chip.burn.plan = some aPlan ∧ s.chip.burn.latched = some (aLine true)
      ∧ (aLine true).last = true ∧ s.chip.job.current = some aTicket
      ∧ s.chip.job.result.copiesCompleted + 1 ≠ aTicket.copies ∧ s.chip.engine.state = .running
      ∧ s.chip.motion.operation = .none ∧ s.chip.motion.values.presentation = .none
      ∧ s.chip.portInReach = true := by decide +kernel

theorem witness_HeadLinkGrant :
    let s := part fun c => { c with burn := { c.burn with
      linkRequested := true, register := some (aLine false, .shifted) } }
    s.resetPin = false ∧ s.chip.burn.linkRequested = true ∧ s.chip.burn.link = .held ∧ s.chip.burn.plan = none
      ∧ ∀ r at0, s.chip.burn.register ≠ some (r, .shifting at0) := by
  refine ⟨by decide, by decide, by decide +kernel, by decide +kernel, ?_⟩
  intro r at0; simp [part]

/-- The ends of the ranges of Nominal Burn and Darkness. -/
theorem witness_DarkenedTime : 50 ≤ 50 ∧ 50 ≤ 4000 ∧ 4000 ≤ 4000 ∧ 0 ≤ 30 ∧ 30 ≤ 30 := by decide

theorem witness_BurnTimes :
    let v : BurnValues := { BurnValues.lowest with historyFactors := [256, 224, 192, 160] }
    250 ≤ 250 ∧ (∀ k, v.historyFactors.getD k 0 ≤ 256)
      ∧ ∀ k, v.historyFactors.getD (k + 1) 0 ≤ v.historyFactors.getD k 0 := by
  refine ⟨by decide, ?_, ?_⟩ <;>
    (intro k; rcases k with _ | _ | _ | _ | k <;> simp)

/-- A blank line in one group, and a black one in four. -/
theorem witness_BurnGroups : 320 ≤ 320 ∧ (burnGroups 320 0).length = 1
    ∧ (burnGroups 320 (BitVec.allOnes 1280)).map (·.segments) = [[0], [1], [2], [3]] := by decide +kernel

/-! ### Media motion -/

/-- Motion FORWARD in the operation `o` with its timer running. -/
def moving (o : Operation) : State := engineIn .running fun c => { c with
  burn := { c.burn with plan := some aPlan }
  motion := { c.motion with state := .forward, timer := .running 250 700, operation := o } }

theorem witness_PeriodExpiry :
    (moving .none).resetPin = false ∧ (moving .none).chip.motion.timer = .running 250 700
      ∧ (moving .none).chip.motion.state = .forward ∧ (moving .none).chip.motion.operation = .none
      ∧ (moving (.print 3 99)).resetPin = false ∧ (moving (.print 3 99)).chip.motion.timer = .running 250 700
      ∧ (moving (.print 3 99)).chip.motion.state = .forward ∧ (moving (.print 3 99)).chip.burn.plan ≠ none
      ∧ (moving (.print 3 99)).chip.motion.operation.wantsForward = true := by decide

theorem witness_LineFeed :
    let s := engineIn .running fun c => { c with
      motion := { c.motion with operation := .lineFeed 2 }
      protection := { c.protection with gate := .opened }
      scanner := { c.scanner with converter := .converting .therm 10 } }
    s.resetPin = false ∧ s.chip.motion.operation = .lineFeed 2 ∧ 2 ≤ 2 ∧ s.chip.motion.state = .still
      ∧ s.chip.burn.plan = none ∧ s.chip.protection.gate = .opened
      ∧ s.chip.scanner.converter = .converting .therm 10 ∧ s.chip.portInReach = true := by decide

/-- A line step of a print operation is due, its line SHIFTED. -/
def lineDue : State := engineIn .running fun c => { c with
  motion := { c.motion with state := .forward, timer := .expired, operation := .print 98 99 }
  protection := { c.protection with gate := .opened }
  burn := { c.burn with
    register := some (aLine false, .shifted)
    values := { c.burn.values with historyFactors := [256, 224, 192, 160] } }
  scanner := { c.scanner with converter := .converting .therm 10 } }

/-- With factors that leave phases to run, and with every factor 0, so that the burn ends at its line start. -/
theorem witness_LineStep : ∀ s ∈ [lineDue, { lineDue with chip := { lineDue.chip with
      burn := { lineDue.chip.burn with values := .lowest, lastLineStart := some 0 } } }],
    s.resetPin = false ∧ s.chip.motion.operation = .print 98 99 ∧ 98 < 99 ∧ s.chip.motion.state = .forward
      ∧ s.chip.motion.timer = .expired ∧ s.chip.burn.plan = none ∧ s.chip.protection.gate = .opened
      ∧ s.chip.burn.register = some (aLine false, .shifted) ∧ s.chip.scanner.values.printMethod = .direct
      ∧ s.chip.scanner.converter = .converting .therm 10 ∧ s.chip.portInReach = true ∧ (aLine false).last = false := by
  decide +kernel

/-- R118: which of the two has a phase to run. -/
theorem witness_LineStep_phases :
    let b := lineDue.chip.burn
    (b.planFor 0 0 250 (aLine false)).isSome = true
      ∧ ({ b with values := .lowest }).planFor 0 0 250 (aLine false) = none := by decide +kernel

/-- The pace rule's cases at the levels 7, 8, 15 and 16, below, at and above the target. -/
theorem witness_Pace :
    let m := fun (step target : Nat) => { MotionController.reset with
      speedStep := step, values := { MotionValues.lowest with target := target } }
    (m 1 2).stretchMark = false ∧ 7 < 8 ∧ 8 ≤ 8 ∧ 15 < 16 ∧ 16 ≤ 16
      ∧ (m 3 2).values.target < (m 3 2).speedStep ∧ (m 1 2).speedStep < (m 1 2).values.target
      ∧ (m 2 2).speedStep = (m 2 2).values.target := by decide

theorem witness_ReverseStep :
    let s := engineIn .running fun c => { c with
      motion := { c.motion with operation := .labelBack 4, presentedLines := 1, state := .reverse, timer := .expired }
      protection := { c.protection with gate := .opened } }
    s.resetPin = false ∧ s.chip.motion.operation.isBack = true ∧ 0 < s.chip.motion.presentedLines
      ∧ s.chip.protection.gate = .opened ∧ s.chip.motion.state = .reverse ∧ s.chip.motion.timer = .expired := by
  decide

/-! ### The Sensor Scanner and the Protection Unit -/

/-- A conversion in flight in RUNNING, the limits held, the head closed and the supply ON. -/
def converting (what : Conversion) (f : Chip → Chip := id) : State := engineIn .running fun c => f { c with
  scanner := { c.scanner with converter := .converting what 10, headClosed := ⟨true, true, 0⟩ }
  protection := { c.protection with
    limits := some ⟨800, 700, 900, 100⟩, supply := .on, gate := .opened, lowRun := 1 } }

/-- The codes of Hold Limit and Resume Limit, and the one below Trip Limit. -/
theorem witness_Therm :
    (converting .therm).resetPin = false ∧ (converting .therm).chip.scanner.converter = .converting .therm 10
      ∧ (converting .therm).chip.scanner.waiting = []
      ∧ (converting .therm).chip.protection.limits = some ⟨800, 700, 900, 100⟩
      ∧ (899 : Code).toNat < 900 ∧ (800 : Code).toNat < 900 ∧ (700 : Code).toNat < 900
      ∧ (converting .therm).chip.portInReach = true := by decide

theorem witness_SupplyLow :
    let s := converting .supply
    s.resetPin = false ∧ s.chip.scanner.converter = .converting .supply 10
      ∧ s.chip.protection.limits = some ⟨800, 700, 900, 100⟩ ∧ s.chip.protection.supply = .on
      ∧ s.chip.protection.lowRun = 1 ∧ (99 : Code).toNat < 100 ∧ s.chip.engine.state = .running
      ∧ s.chip.engine.firstCause = none ∧ s.chip.portInReach = true ∧ s.chip.engine.areaInReach = true := by decide

/-- A sample on the side of a candidate, and one in the band. -/
theorem witness_Samples :
    sensor.candidate = none ∧ ({ sensor with candidate := some (.gap, 5) }).candidate = some (.gap, 5)
      ∧ sensor.sideOf 534 = some .gap ∧ sensor.sideOf 533 ≠ some .gap := by decide

/-- With no ticket current, and with a CALIBRATE ticket at work. -/
theorem witness_TopEdge : ∀ t ∈ [none, some { aTicket with kind := TicketKind.calibrate }],
    let s := converting (.media 111 false) fun c => { c with
      job := { c.job with current := t, jobState := if t = none then .dry else .calibrating }
      scanner := { c.scanner with
        mediaState := .gap, candidate := some (.label, 110), calibratedThreshold := 470, calibratedHysteresis := 63 }
      motion := { c.motion with lastEdge := some 100, edgeQueue := List.replicate 7 100 } }
    s.resetPin = false ∧ s.chip.scanner.converter = .converting (.media 111 false) 10
      ∧ s.chip.scanner.waiting = [] ∧ s.chip.scanner.mediaState = .gap
      ∧ s.chip.scanner.candidate = some (.label, 110)
      ∧ s.chip.scanner.sideOf (s.chip.scanner.values.sampleValue 190) = some .label
      ∧ s.chip.motion.lastEdge = some 100 ∧ isAfter 110 (100 + 2) = true ∧ s.chip.motion.edgeQueue.length < 8
      ∧ s.chip.motion.operation = .none ∧ s.chip.motion.timer = .stopped ∧ s.chip.portInReach = true
      ∧ s.chip.job.current = t := by
  decide +kernel

/-- Two edges, the first of them passed. -/
theorem witness_Target :
    let m := { MotionController.reset with
      position := 100, edgeQueue := [100, 300], values := { MotionValues.lowest with topAdjust := 0 } }
    m.seek.1.edgeQueue = [300] ∧ isAfter (m.printStart 300) m.position = true
      ∧ isAfter 0x7FFFFFFF 0 = true ∧ isAfter 0x80000000 0 = false := by decide

theorem witness_Encoder :
    State.reset.resetPin = false ∧ State.reset.chip.scanner.phaseFirst = false
      ∧ State.reset.chip.scanner.phaseSecond = false ∧ false ≠ true := by decide

/-- AWAIT_TAKE with a ticket current, and with none after a look that read a zero link. -/
theorem witness_TakenDebounced :
    let waiting := fun (t : Option Ticket) => engineIn .running fun c => { c with
      job := { c.job with current := t, jobState := .awaitTake, lastLookZero := true }
      scanner := { c.scanner with taken := ⟨true, false, 0⟩ } }
    (waiting (some aTicket)).resetPin = false
      ∧ (waiting (some aTicket)).chip.scanner.taken.raw ≠ (waiting (some aTicket)).chip.scanner.taken.debounced
      ∧ (waiting (some aTicket)).chip.job.jobState = .awaitTake ∧ (waiting none).resetPin = false
      ∧ (waiting none).chip.scanner.taken.raw ≠ (waiting none).chip.scanner.taken.debounced
      ∧ (waiting none).chip.waits = true ∧ (waiting none).chip.job.dryMark = false := by decide

theorem witness_HeadSwitch :
    let opening := engineIn .running fun c => { c with scanner := { c.scanner with headClosed := ⟨true, false, 0⟩ } }
    let closing := engineIn .running fun c => { c with scanner := { c.scanner with headClosed := ⟨false, true, 0⟩ } }
    let settling := part fun c => { c with protection := { c.protection with supply := .settling 5000 } }
    settling.resetPin = false ∧ settling.chip.protection.supply = .settling 5000
      ∧ opening.resetPin = false ∧ opening.chip.engine.state = .running ∧ opening.chip.portInReach = true
      ∧ opening.chip.engine.areaInReach = true ∧ opening.chip.scanner.headClosed.debounced = true
      ∧ opening.chip.scanner.headClosed.raw = false ∧ opening.chip.engine.firstCause = none
      ∧ closing.resetPin = false ∧ closing.chip.engine.state = .running ∧ closing.chip.portInReach = true
      ∧ closing.chip.engine.areaInReach = true ∧ closing.chip.scanner.headClosed.debounced = false
      ∧ closing.chip.scanner.headClosed.raw = true ∧ closing.chip.protection.tripLatch = false
      ∧ closing.chip.protection.supply = .off := by decide

/-- A dot test at dot `dot` in the step `step`, the supply ON and the head link LENT. -/
def testing (dot : Nat) (step : TestStep) : State := converting .therm fun c => { c with
  burn := { c.burn with link := .lent }
  protection := { c.protection with test := .testing ⟨2, 100, 200, dot, 0, step⟩ } }

theorem witness_DotIsMeasured :
    let a := testing 0 .waiting
    let b := testing 0 (.shifting 32)
    let m : TestStep := .measuring (.on 34) (some 99)
    let c := testing 1278 m
    a.resetPin = false ∧ a.chip.protection.test = .testing ⟨2, 100, 200, 0, 0, .waiting⟩
      ∧ a.chip.protection.gate = .opened ∧ a.chip.burn.link = .lent
      ∧ b.resetPin = false ∧ b.chip.protection.test = .testing ⟨2, 100, 200, 0, 0, .shifting 32⟩
      ∧ b.chip.scanner.converter = .converting .therm 10
      ∧ c.resetPin = false ∧ c.chip.protection.test = .testing ⟨2, 100, 200, 1278, 0, m⟩ ∧ 1278 < 1279
      ∧ c.chip.portInReach = true := by decide +kernel

theorem witness_LastDot :
    let m : TestStep := .measuring (.on 34) (some 200)
    let s := testing 1279 m
    s.resetPin = false ∧ s.chip.protection.test = .testing ⟨2, 100, 200, 1279, 0, m⟩ ∧ 100 ≤ (200 : Code).toNat
      ∧ (200 : Code).toNat ≤ 200 ∧ s.chip.engine.state = .running
      ∧ s.chip.scanner.headClosed.debounced = true ∧ s.chip.protection.tripLatch = false
      ∧ s.chip.protection.supply = .on ∧ s.chip.burn.register = none ∧ s.chip.portInReach = true
      ∧ s.chip.engine.areaInReach = true := by decide +kernel

/-! ### Settings and tickets -/

theorem witness_UndefinedCodes :
    2 < field [3, 2, 3] 0 1 ∧ 1 < field [3, 2, 3] 1 1 ∧ 2 < field [3, 2, 3] 2 1 := by decide

/-- A PRINT ticket of 92 bytes with one SERIAL record, 32 lines by 8 dots, one copy. -/
def ticketBytes : List Byte :=
  [0, 0, 0, 0, 1, 1, 0, 1, 92, 0, 1, 0, 32, 0, 8, 0, 248, 4, 30, 7] ++ List.replicate 44 0
    ++ [4, 0, 28, 0] ++ List.replicate 8 0 ++ [9, 0, 0, 48] ++ List.replicate 12 0

theorem witness_ValidTickets :
    (match validate 0x2000 ticketBytes with
      | .valid t => decide (t.objects.length = 1 ∧ t.leftOffset + t.labelWidth = 1280)
      | .refused _ => false) = true := by decide +kernel

end Sys2Proof.Tests
end

section
/-! The codes of the Settings Block that select by name (R6), and what taking a block changes (R4, R7). -/

namespace Sys2Proof.Machine

open Sys2Proof

/-! ### The decoders of the three codes above their last defined value -/

theorem mediaKindOf_of_two_lt {n : Nat} (h : 2 < n) : mediaKindOf n = .gap := by
  match n, h with
  | _ + 3, _ => rfl

theorem printMethodOf_of_one_lt {n : Nat} (h : 1 < n) : printMethodOf n = .direct := by
  match n, h with
  | _ + 2, _ => rfl

theorem presentationOf_of_two_lt {n : Nat} (h : 2 < n) : presentationOf n = .none := by
  match n, h with
  | _ + 3, _ => rfl

/-! ### The byte of the block that each code is read from (Table 1-2) -/

@[simp] theorem settingsOf_mediaKind (block : List Byte) :
    (settingsOf block).mediaKind = mediaKindOf (field block 0 1) := rfl

@[simp] theorem settingsOf_printMethod (block : List Byte) :
    (settingsOf block).printMethod = printMethodOf (field block 1 1) := rfl

@[simp] theorem settingsOf_presentation (block : List Byte) :
    (settingsOf block).presentation = presentationOf (field block 2 1) := rfl

/-! ### Taking an agreed block, whether or not a look interval is running -/

/-- A load writes nothing outside Job Control. -/
theorem Chip.takeSettings_eq_with_job (gen : Word) (block : List Byte) (c : Chip) :
    c.takeSettings gen block = { c with job := (c.takeSettings gen block).job } := by
  unfold Chip.takeSettings
  cases c.job.lookTimer with
  | none => rfl
  | some _ => rfl

@[simp] theorem Chip.takeSettings_engine (gen : Word) (block : List Byte) (c : Chip) :
    (c.takeSettings gen block).engine = c.engine := by
  rw [Chip.takeSettings_eq_with_job]

@[simp] theorem Chip.takeSettings_snapshot (gen : Word) (block : List Byte) (c : Chip) :
    (c.takeSettings gen block).job.snapshot = some (settingsOf block) := by
  unfold Chip.takeSettings
  cases c.job.lookTimer with
  | none => rfl
  | some _ => rfl

/-- Settles O58: each code's decoder gives the first defined value past its last one, and the snapshot is the
decoded block with Engine Control left as it was. -/
theorem undefinedCodesLoadAsFirstValue : Obligations.UndefinedCodesLoadAsFirstValue := by
  intro block gen c
  refine ⟨fun hkind => ?media, fun hmethod => ?method, fun hpresentation => ?presentation, rfl, rfl, rfl,
    c.takeSettings_snapshot gen block, c.takeSettings_engine gen block⟩
  case media => rw [settingsOf_mediaKind, mediaKindOf_of_two_lt hkind]
  case method => rw [settingsOf_printMethod, printMethodOf_of_one_lt hmethod]
  case presentation => rw [settingsOf_presentation, presentationOf_of_two_lt hpresentation]

end Sys2Proof.Machine
end

section
/-! The darkened time of the Burn Controller (R113). -/

namespace Sys2Proof.Machine

open Sys2Proof

/-- R113's own formula, with the difference d - 15 taken over the integers. -/
theorem darkenedTime_eq_signed (n d : Nat) :
    (darkenedTime n d : Int) = (n : Int) * (128 + 4 * ((d : Int) - 15)) / 128 := by
  have hmultiplier : 128 + 4 * ((d : Int) - 15) = 68 + 4 * (d : Int) := by ring
  rw [hmultiplier]
  simp only [darkenedTime]
  push_cast
  rfl

/-- Each darkness step adds 4 to the multiplier. -/
theorem darkenedTime_succ (n d : Nat) :
    darkenedTime n (d + 1) = n * ((68 + 4 * d) + 4) / 128 := rfl

/-- A longer Nominal Burn or a greater darkness never shortens T1. -/
theorem darkenedTime_mono {n n' d d' : Nat} (hn : n ≤ n') (hd : d ≤ d') :
    darkenedTime n d ≤ darkenedTime n' d' := by
  have hmultiplier : 68 + 4 * d ≤ 68 + 4 * d' := by omega
  exact Nat.div_le_div_right (Nat.mul_le_mul hn hmultiplier)

/-- T1 at the least Nominal Burn and darkness. -/
theorem darkenedTime_lowest : darkenedTime 50 0 = 26 := rfl

/-- T1 at the greatest Nominal Burn and darkness. -/
theorem darkenedTime_highest : darkenedTime 4000 30 = 5875 := rfl

/-- T1 is monotone, so its values at the ends of the ranges bound it. -/
theorem darkenedTime_bounds {n d : Nat} (hlow : 50 ≤ n) (hhigh : n ≤ 4000) (hd : d ≤ 30) :
    26 ≤ darkenedTime n d ∧ darkenedTime n d ≤ 5875 := by
  constructor
  · calc 26 = darkenedTime 50 0 := darkenedTime_lowest.symm
      _ ≤ darkenedTime n d := darkenedTime_mono hlow d.zero_le
  · calc darkenedTime n d ≤ darkenedTime 4000 30 := darkenedTime_mono hhigh hd
      _ = 5875 := darkenedTime_highest

/-- Settles O41: the signed formula and the step are read off the multiplier 68 + 4 d, and the bounds follow from
monotonicity. -/
theorem darkenedTimeFollowsDarkness : Obligations.DarkenedTimeFollowsDarkness := by
  refine ⟨darkenedTime_eq_signed, fun n => ?multipliers, fun n d => ?darknessStep,
    darkenedTime_lowest, darkenedTime_highest, fun n d => darkenedTime_bounds⟩
  case multipliers => exact ⟨rfl, rfl, rfl⟩
  case darknessStep => exact ⟨68 + 4 * d, rfl, darkenedTime_succ n d⟩

end Sys2Proof.Machine
end

section
/-! The invariants of the part as a relation between a part before and a part after (`Chip.Keeps`), and that the
operations every block shares keep them: AREA's form (R1), the room of the Line Store and of the Edge Queue (R66,
R136), the saturating counts (R35), the head supply and the gate (R162, R163). -/

namespace Sys2Proof.Machine

open Sys2Proof

/-! ### The invariants, from a part to another -/

/-- The gate is OPEN exactly while the supply is ON (R163). -/
def Chip.gateFollows (c : Chip) : Prop := decide (c.protection.gate = .opened) = c.protection.supply.isOn

/-- From `c` to `d` every invariant stands on but that the supply is as its conditions ask, which `Chip.examineSupply`
brings about again. -/
structure Chip.KeepsParts (c d : Chip) : Prop where
  areas : c.engine.areasLegal = true → d.engine.areasLegal = true
  store : c.composer.store.length ≤ 32 → d.composer.store.length ≤ 32
  edges : c.motion.edgeQueue.length ≤ 8 → d.motion.edgeQueue.length ≤ 8
  result : c.job.result.saturated = true → d.job.result.saturated = true
  gate : c.gateFollows → d.gateFollows

/-- From `c` to `d` every invariant stands on. -/
structure Chip.Keeps (c d : Chip) : Prop extends Chip.KeepsParts c d where
  supply : c.supplySound = true → d.supplySound = true

theorem Chip.supplySound_iff (c : Chip) :
    c.supplySound = true ↔ decide (c.protection.supply ≠ .off) = c.supplyWanted ∧ c.gateFollows := by
  simp [Chip.supplySound, Chip.gateFollows]

theorem Chip.KeepsParts.trans {c d e : Chip} (h : c.KeepsParts d) (k : d.KeepsParts e) : c.KeepsParts e :=
  ⟨k.areas ∘ h.areas, k.store ∘ h.store, k.edges ∘ h.edges, k.result ∘ h.result, k.gate ∘ h.gate⟩

theorem Chip.Keeps.trans {c d e : Chip} (h : c.Keeps d) (k : d.Keeps e) : c.Keeps e :=
  ⟨h.toKeepsParts.trans k.toKeepsParts, k.supply ∘ h.supply⟩

/-- All of a part that its invariants speak of. -/
def Chip.watched (c : Chip) :=
  (c.engine.area, c.engine.areaInUse, c.composer.store, c.motion.edgeQueue, c.job.result, c.protection.supply,
    c.protection.gate, c.supplyWanted)

theorem Chip.Keeps.of_watched {c d : Chip} (h : d.watched = c.watched) : c.Keeps d := by
  simp only [Chip.watched, Prod.mk.injEq] at h
  obtain ⟨harea, huse, hstore, hedges, hresult, hsupply, hgate, hwanted⟩ := h
  refine ⟨⟨?_, ?_, ?_, ?_, ?_⟩, ?_⟩
  · simp only [EngineControl.areasLegal, harea, huse, imp_self]
  · rw [hstore]; exact id
  · rw [hedges]; exact id
  · rw [hresult]; exact id
  · simp only [Chip.gateFollows, hgate, hsupply, imp_self]
  · simp only [Chip.supplySound, hgate, hsupply, hwanted, imp_self]

theorem Chip.Keeps.refl (c : Chip) : c.Keeps c := .of_watched rfl

theorem Chip.Keeps.after {c d e : Chip} (k : d.Keeps e) (h : c.Keeps d) : c.Keeps e := h.trans k

/-- A change that keeps the invariants, and then one of what they do not speak of. -/
theorem Chip.Keeps.then_watched {c d e : Chip} (h : c.Keeps d) (k : e.watched = d.watched) : c.Keeps e :=
  h.trans (.of_watched k)

/-- A change that keeps the invariants, after one of what they do not speak of. -/
theorem Chip.Keeps.after_watched {c d e : Chip} (k : d.Keeps e) (h : d.watched = c.watched) : c.Keeps e :=
  (Chip.Keeps.of_watched h).trans k

theorem Chip.Keeps.of_composer {c : Chip} {k : Composer}
    (h : c.composer.store.length ≤ 32 → k.store.length ≤ 32) : c.Keeps { c with composer := k } :=
  ⟨⟨id, h, id, id, id⟩, id⟩

theorem Chip.Keeps.of_motion {c : Chip} {m : MotionController}
    (h : c.motion.edgeQueue.length ≤ 8 → m.edgeQueue.length ≤ 8) : c.Keeps { c with motion := m } :=
  ⟨⟨id, id, h, id, id⟩, id⟩

theorem Chip.Keeps.of_job {c : Chip} {j : JobController}
    (h : c.job.result.saturated = true → j.result.saturated = true) : c.Keeps { c with job := j } :=
  ⟨⟨id, id, id, h, id⟩, id⟩

/-! ### Accesses, events and reports -/

@[simp] theorem Chip.advanceTo_watched (c : Chip) (t : Nat) : (c.advanceTo t).watched = c.watched := rfl
@[simp] theorem Chip.raise_watched (c : Chip) (e : Event) : (c.raise e).watched = c.watched := rfl
@[simp] theorem Chip.refuse_watched (c : Chip) (r : RefusedCommand) : (c.refuse r).watched = c.watched := rfl
@[simp] theorem Chip.ask_watched (c : Chip) (q : Requester) (a : Access) : (c.ask q a).watched = c.watched := rfl
@[simp] theorem Chip.withdraw_watched (c : Chip) (q : Requester) (g : Purpose → Bool) :
    (c.withdraw q g).watched = c.watched := rfl
@[simp] theorem Chip.stopMotion_watched (c : Chip) : c.stopMotion.watched = c.watched := rfl
@[simp] theorem Chip.abandonBurn_watched (c : Chip) : c.abandonBurn.watched = c.watched := rfl
@[simp] theorem Chip.job_watched (c : Chip) (j : JobController) (h : j.result = c.job.result) :
    ({ c with job := j } : Chip).watched = c.watched := by
  simp only [Chip.watched, h]; rfl

/-- A report that leaves the saturating counts at 255 or below keeps the invariants (R35). -/
theorem Chip.report_keeps (c : Chip) {f : RunningResult → RunningResult}
    (hf : ∀ r, r.saturated = true → (f r).saturated = true) : c.Keeps (c.report f) := by
  unfold Chip.report
  split
  · exact .refl c
  · exact .of_job (hf _)

theorem RunningResult.saturated_iff (r : RunningResult) :
    r.saturated = true ↔ r.omittedObjects ≤ 255 ∧ r.missingGlyphs ≤ 255 ∧ r.dwellStops ≤ 255
      ∧ r.burnStretches ≤ 255 ∧ r.badDotsUnderBars ≤ 255 ∧ r.splitLines ≤ 255 ∧ r.ribbonGlitches ≤ 255 := by
  simp [RunningResult.saturated, and_assoc]

theorem saturate8_le (n : Nat) : saturate8 n ≤ 255 := Nat.min_le_left _ _

theorem RunningResult.addDwell_saturated (r : RunningResult) (h : r.saturated = true) :
    r.addDwell.saturated = true := by
  rw [RunningResult.saturated_iff] at h ⊢
  simp [RunningResult.addDwell, saturate8_le, h]

theorem RunningResult.addStretch_saturated (r : RunningResult) (h : r.saturated = true) :
    r.addStretch.saturated = true := by
  rw [RunningResult.saturated_iff] at h ⊢
  simp [RunningResult.addStretch, saturate8_le, h]

theorem RunningResult.addGlitch_saturated (r : RunningResult) (h : r.saturated = true) :
    r.addGlitch.saturated = true := by
  rw [RunningResult.saturated_iff] at h ⊢
  simp [RunningResult.addGlitch, saturate8_le, h]

theorem RunningResult.addSplit_saturated (r : RunningResult) (h : r.saturated = true) :
    ({ r with splitLines := saturate8 (r.splitLines + 1) } : RunningResult).saturated = true := by
  rw [RunningResult.saturated_iff] at h ⊢
  simp [saturate8_le, h]

theorem RunningResult.take_saturated (t : Tally) (r : RunningResult) (h : r.saturated = true) :
    (r.take t).saturated = true := by
  rw [RunningResult.saturated_iff] at h ⊢
  simp [RunningResult.take, saturate8_le, h]

/-! ### The job state and the Composer -/

@[simp] theorem Chip.raiseDry_watched (c : Chip) : c.raiseDry.watched = c.watched := by
  unfold Chip.raiseDry
  split <;> rfl

@[simp] theorem Chip.becomeDry_watched (c : Chip) : c.becomeDry.watched = c.watched := by
  unfold Chip.becomeDry
  simp only
  split
  · rw [Chip.raiseDry_watched]; rfl
  · rfl

@[simp] theorem Chip.settleJobState_watched (c : Chip) : c.settleJobState.watched = c.watched := by
  unfold Chip.settleJobState
  split
  · rfl
  · exact c.becomeDry_watched

theorem Chip.flushComposer_keeps (c : Chip) : c.Keeps c.flushComposer := by
  unfold Chip.flushComposer
  split
  · exact .refl c
  · exact (Chip.Keeps.of_watched (c.withdraw_watched .composer _)).trans (.of_composer fun _ => Nat.zero_le _)

theorem Chip.flush_keeps (c : Chip) : c.Keeps c.flush := c.flushComposer_keeps.then_watched rfl

theorem Chip.suspendComposer_keeps (c : Chip) : c.Keeps c.suspendComposer :=
  (Chip.Keeps.of_watched (c.withdraw_watched .composer _)).trans (.of_composer fun _ => Nat.zero_le _)

theorem Chip.releaseComposer_keeps (c : Chip) : c.Keeps c.releaseComposer := by
  unfold Chip.releaseComposer
  split
  · exact .of_composer fun _ => Nat.zero_le _
  · exact .refl c

/-! ### The head supply -/

/-- Re-examining the supply asks for no more than that the gate follows it (R162, R163). -/
theorem Chip.examineSupply_sound (c : Chip) (h : c.gateFollows) : c.examineSupply.supplySound = true := by
  rw [Chip.supplySound_iff]
  unfold Chip.examineSupply
  by_cases hw : c.supplyWanted = true
  · rw [if_pos hw]
    cases hs : c.protection.supply with
    | off =>
      simp only [Chip.gateFollows, hs] at h ⊢
      exact ⟨hw.symm, h⟩
    | settling done => exact ⟨by simp [hs, hw], h⟩
    | on => exact ⟨by simp [hs, hw], h⟩
  · rw [if_neg hw]
    simp only [Bool.not_eq_true] at hw
    rw [Chip.closeGate_eq]
    exact ⟨by simpa [Chip.supplyWanted] using hw, rfl⟩

theorem Chip.examineSupply_keepsParts (c : Chip) : c.KeepsParts c.examineSupply := by
  refine ⟨?_, ?_, ?_, ?_, fun h => ((Chip.supplySound_iff _).1 (c.examineSupply_sound h)).2⟩ <;>
  · rw [Chip.examineSupply_eq]
    exact id

/-- After a change that leaves the supply to be re-examined, re-examining it keeps every invariant. -/
theorem Chip.KeepsParts.examine {c d : Chip} (h : c.KeepsParts d) : c.Keeps d.examineSupply :=
  ⟨h.trans d.examineSupply_keepsParts, fun hs => d.examineSupply_sound (h.gate ((Chip.supplySound_iff c).1 hs).2)⟩

theorem Chip.examineSupply_keeps (c : Chip) : c.Keeps c.examineSupply := (Chip.Keeps.refl c).toKeepsParts.examine

/-! ### Abandoning a dot test, halting, and taking a cause -/

theorem Chip.abandonTest_keeps (c : Chip) : c.Keeps c.abandonTest := by
  unfold Chip.abandonTest
  split
  · exact .refl c
  · refine Chip.Keeps.then_watched ?_ (Chip.ask_watched _ _ _)
    exact Chip.KeepsParts.examine ⟨id, id, id, id, id⟩

@[simp] theorem JobController.dropLook_result (j : JobController) : j.dropLook.result = j.result := by
  unfold JobController.dropLook
  split <;> rfl

@[simp] theorem JobController.suspend_result (j : JobController) : j.suspend.result = j.result :=
  j.dropLook_result

@[simp] theorem Chip.wantFaultRecord_watched (c : Chip) : c.wantFaultRecord.watched = c.watched := by
  rw [Chip.wantFaultRecord_eq]; rfl

@[simp] theorem Chip.wantFaultRewrite_watched (c : Chip) : c.wantFaultRewrite.watched = c.watched := by
  unfold Chip.wantFaultRewrite
  split <;> rfl

/-- The entry to HALTED changes the engine state, and so re-examines the supply (R162, R178). -/
theorem Chip.enterHalted_keeps (c : Chip) : c.Keeps c.enterHalted := by
  unfold Chip.enterHalted
  let c1 : Chip := { c with engine := { c.engine with state := .halted, haltedFrom := some c.engine.state } }
  let c2 := (c1.stopMotion.suspendComposer).abandonBurn
  let c3 : Chip := { (c2.withdraw .job Purpose.endsAtHalt) with job := c2.job.suspend }
  have h1 : c.KeepsParts c1 := ⟨id, id, id, id, id⟩
  have h2 : c1.Keeps c2 := (Chip.suspendComposer_keeps c1.stopMotion).then_watched (Chip.abandonBurn_watched _)
    |>.after_watched c1.stopMotion_watched
  have h3 : c2.Keeps c3 := .of_watched (Chip.job_watched _ _ c2.job.suspend_result)
  have h4 : c3.Keeps (c3.withdraw .engine Purpose.isLoading).abandonTest :=
    (Chip.abandonTest_keeps _).after_watched (Chip.withdraw_watched _ _ _)
  exact (((h1.trans h2.toKeepsParts).trans h3.toKeepsParts).trans h4.toKeepsParts).examine

theorem Chip.reportFault_keeps (k : Cause) (ticket : Word) (c : Chip) : c.Keeps (c.reportFault k ticket) := by
  unfold Chip.reportFault
  split
  · refine Chip.Keeps.then_watched ?_ (Chip.wantFaultRecord_watched _)
    split
    · exact (Chip.enterHalted_keeps _).after_watched rfl
    · exact .of_watched rfl
  · split
    · exact .refl c
    · exact .of_watched (Chip.wantFaultRewrite_watched _)

theorem Chip.fault_keeps (k : Cause) (c : Chip) : c.Keeps (c.fault k) := c.reportFault_keeps k _

theorem Chip.trip_keeps (k : Cause) (c : Chip) : c.Keeps (c.trip k) := by
  have h : c.KeepsParts { c with protection := { c.protection with tripLatch := true } } := ⟨id, id, id, id, id⟩
  exact (h.examine.trans (Chip.abandonTest_keeps _)).trans (Chip.fault_keeps k _)

/-! ### Motion -/

theorem MotionController.dropPassed_length_le (m : MotionController) (q : List Position) :
    (m.dropPassed q).length ≤ q.length := by
  induction q with
  | nil => exact Nat.le_refl _
  | cons e es ih =>
    unfold MotionController.dropPassed
    split
    · exact Nat.le_refl _
    · exact Nat.le_succ_of_le ih

theorem MotionController.seek_edges_le (m : MotionController) :
    m.seek.1.edgeQueue.length ≤ m.edgeQueue.length := m.dropPassed_length_le _

theorem MotionController.beginAlign_edges_le (b : Bool) (m : MotionController) :
    (m.beginAlign b).edgeQueue.length ≤ m.edgeQueue.length := by
  unfold MotionController.beginAlign
  split
  · exact Nat.le_refl _
  · exact m.seek_edges_le

theorem MotionController.beginLabels_edges_le (n : Nat) (m : MotionController) :
    (m.beginLabels n).edgeQueue.length ≤ m.edgeQueue.length := m.seek_edges_le

theorem MotionController.giveAlignment_edges_le (m : MotionController) :
    m.giveAlignment.edgeQueue.length ≤ m.edgeQueue.length := by
  unfold MotionController.giveAlignment
  split
  · exact m.beginAlign_edges_le true
  · exact Nat.le_refl _

theorem MotionController.giveLabelFeed_edges_le (n : Nat) (m : MotionController) :
    (m.giveLabelFeed n).edgeQueue.length ≤ m.edgeQueue.length := by
  unfold MotionController.giveLabelFeed
  split
  · exact m.beginLabels_edges_le n
  · exact Nat.le_refl _

theorem MotionController.afterBackfeed_edges_le (m : MotionController) :
    m.afterBackfeed.edgeQueue.length ≤ m.edgeQueue.length := by
  unfold MotionController.afterBackfeed
  split
  · split
    · exact m.beginAlign_edges_le true
    · exact Nat.le_refl _
    · exact m.beginLabels_edges_le _
    · exact Nat.le_refl _
  · exact Nat.le_refl _

theorem MotionController.settle_edges_le (m : MotionController) :
    m.settle.edgeQueue.length ≤ m.edgeQueue.length := by
  unfold MotionController.settle
  split
  · split
    · split
      · exact Nat.le_refl _
      · exact m.still.afterBackfeed_edges_le
    · split
      · exact Nat.le_refl _
      · exact m.still.afterBackfeed_edges_le
    · exact Nat.le_refl _
  · exact Nat.le_refl _

@[simp] theorem MotionController.paceLine_edgeQueue (n : Nat) (m : MotionController) :
    (m.paceLine n).edgeQueue = m.edgeQueue := by
  unfold MotionController.paceLine MotionController.ramp
  repeat' split
  all_goals rfl

@[simp] theorem MotionController.paceFeed_edgeQueue (m : MotionController) :
    m.paceFeed.edgeQueue = m.edgeQueue := by
  unfold MotionController.paceFeed MotionController.ramp
  repeat' split
  all_goals rfl

@[simp] theorem MotionController.stepForward_edgeQueue (now level : Nat) (m : MotionController) :
    (m.stepForward now level).edgeQueue = m.edgeQueue := by
  unfold MotionController.stepForward
  simp only
  split
  · rfl
  · split
    · exact m.paceLine_edgeQueue level
    · exact m.paceFeed_edgeQueue

@[simp] theorem MotionController.stopServing_edgeQueue (m : MotionController) :
    m.stopServing.edgeQueue = m.edgeQueue := by
  unfold MotionController.stopServing
  split <;> rfl

theorem Chip.checkDwell_keeps (c : Chip) : c.Keeps c.checkDwell := by
  unfold Chip.checkDwell
  split
  · exact (Chip.report_keeps _ RunningResult.addDwell_saturated).after_watched rfl
  · exact .refl c

theorem Chip.settleMotion_keeps (c : Chip) : c.Keeps c.settleMotion :=
  (Chip.Keeps.of_motion fun h => Nat.le_trans c.motion.settle_edges_le h).trans (Chip.checkDwell_keeps _)

end Sys2Proof.Machine
end

section
/-! The operations of the Job Controller, the Burn Controller, the Sensor Scanner and the Composer keep the
invariants of the part (`Chip.Keeps`). -/

namespace Sys2Proof.Machine

open Sys2Proof

/-! ### Looks, ends and copies -/

@[simp] theorem Chip.askGeneration_watched (q : Requester) (p : LoadPoint) (c : Chip) :
    (c.askGeneration q p).watched = c.watched := rfl

@[simp] theorem Chip.askLink_watched (c : Chip) : c.askLink.watched = c.watched := rfl

@[simp] theorem Chip.startLook_watched (c : Chip) : c.startLook.watched = c.watched := by
  unfold Chip.startLook
  simp only
  split <;> rfl

@[simp] theorem Chip.lookTrigger_watched (c : Chip) : c.lookTrigger.watched = c.watched := by
  unfold Chip.lookTrigger
  split
  · rfl
  · split
    · exact c.startLook_watched
    · rfl

@[simp] theorem Chip.endLook_watched (c : Chip) : c.endLook.watched = c.watched := by
  unfold Chip.endLook
  simp only
  split
  · split
    · rw [Chip.startLook_watched]; rfl
    · rfl
  · rfl

@[simp] theorem Chip.hold_watched (a : Word) (p : Purpose) (c : Chip) : (c.hold a p).watched = c.watched := rfl

@[simp] theorem Chip.startComposition_watched (n : Nat) (c : Chip) : (c.startComposition n).watched = c.watched := by
  unfold Chip.startComposition
  split <;> rfl

@[simp] theorem Chip.askEndWrites_watched (e : EndWriteBack) (c : Chip) : (c.askEndWrites e).watched = c.watched := by
  rw [(Chip.askEndWrites_port e c c rfl).2]; rfl

@[simp] theorem Chip.decideEnd_watched (st : TicketState) (o : Outcome) (c : Chip) :
    (c.decideEnd st o).watched = c.watched := by
  unfold Chip.decideEnd
  split
  · rfl
  · rw [Chip.askEndWrites_watched]; rfl

@[simp] theorem Chip.dryUnlessPresenting_watched (c : Chip) : c.dryUnlessPresenting.watched = c.watched := by
  unfold Chip.dryUnlessPresenting
  split
  · rfl
  · rfl
  · exact c.becomeDry_watched

@[simp] theorem Chip.enterAwaitTake_watched (c : Chip) : c.enterAwaitTake.watched = c.watched := by
  unfold Chip.enterAwaitTake
  simp only
  split
  · rfl
  · rw [Chip.settleJobState_watched]; rfl

@[simp] theorem Chip.presentationDone_watched (c : Chip) : c.presentationDone.watched = c.watched := by
  unfold Chip.presentationDone
  split
  · exact c.enterAwaitTake_watched
  · exact c.settleJobState_watched

@[simp] theorem Chip.beginPresentation_watched (c : Chip) : c.beginPresentation.watched = c.watched := by
  unfold Chip.beginPresentation
  simp only
  split
  · rw [Chip.presentationDone_watched]; rfl
  · rfl

@[simp] theorem Chip.afterCopy_watched (b : Bool) (c : Chip) : (c.afterCopy b).watched = c.watched := by
  unfold Chip.afterCopy
  split
  · exact c.settleJobState_watched
  · split
    · exact c.beginPresentation_watched
    · split
      · exact c.beginPresentation_watched
      · exact c.settleJobState_watched
    · exact c.settleJobState_watched

theorem Chip.copyComplete_keeps (n : Nat) (c : Chip) : c.Keeps (c.copyComplete n) := by
  unfold Chip.copyComplete
  split
  · exact .refl c
  · have hr : c.Keeps (c.report (RunningResult.complete n c.job.copyInHand)) := c.report_keeps fun _ h => h
    simp only
    split
    · exact hr.then_watched (by simp)
    · split
      · exact (hr.trans (Chip.flush_keeps _)).then_watched (by simp)
      · exact hr.then_watched ((Chip.afterCopy_watched _ _).trans rfl)

@[simp] theorem Chip.tryWalk_watched (c : Chip) : c.tryWalk.watched = c.watched := by
  unfold Chip.tryWalk
  split <;> rfl

@[simp] theorem Chip.stepWalk_watched (c : Chip) : c.stepWalk.watched = c.watched := rfl

@[simp] theorem Chip.endWalk_watched (c : Chip) : c.endWalk.watched = c.watched := by
  rw [Chip.endWalk, Chip.lookTrigger_watched]; rfl

theorem Chip.cancelCurrent_keeps (c : Chip) : c.Keeps c.cancelCurrent := by
  unfold Chip.cancelCurrent
  split
  · exact .refl c
  · have h1 : c.Keeps (if c.motion.state = .still then c else c.report RunningResult.addDwell) := by
      split
      · exact .refl c
      · exact c.report_keeps RunningResult.addDwell_saturated
    have h2 := h1.trans ((Chip.flush_keeps _).after_watched (Chip.stopMotion_watched _))
    simp only
    split
    · exact h2.then_watched (by simp)
    · exact h2.then_watched (by simp)

theorem Chip.stopCurrent_keeps (c : Chip) : c.Keeps c.stopCurrent := by
  unfold Chip.stopCurrent
  split
  · exact .refl c
  · exact c.flush_keeps.then_watched (Chip.decideEnd_watched _ _ _)

theorem Chip.stopByJobState_keeps (c : Chip) : c.Keeps c.stopByJobState := by
  have hstop : c.Keeps c.stopCurrent.dryUnlessPresenting :=
    c.stopCurrent_keeps.then_watched (Chip.dryUnlessPresenting_watched _)
  unfold Chip.stopByJobState
  split
  case h_1 | h_4 | h_7 | h_8 => exact .refl c
  case h_2 => exact hstop
  case h_3 =>
    have hserve : c.Keeps { c.stopCurrent.dryUnlessPresenting with motion := c.motion.stopServing } :=
      ⟨⟨hstop.areas, hstop.store, fun h => by rw [MotionController.stopServing_edgeQueue]; exact h, hstop.result,
        hstop.gate⟩, hstop.supply⟩
    exact hserve.trans (Chip.settleMotion_keeps _)
  case h_5 => exact c.stopCurrent_keeps
  case h_6 => exact c.stopCurrent_keeps.then_watched (Chip.settleJobState_watched _)

theorem Chip.faultCurrent_watched (c : Chip) : c.faultCurrent.watched = c.watched := by
  unfold Chip.faultCurrent
  split
  · rfl
  · simp

theorem Chip.takeTicket_keeps (t : Ticket) (c : Chip) : c.Keeps (c.takeTicket t) := by
  have hzero : c.Keeps { c with job := { c.job with result := .zero } } := .of_job fun _ => rfl
  unfold Chip.takeTicket
  simp only
  split
  · exact hzero.then_watched (by simp; rfl)
  · exact hzero.then_watched (by simp; rfl)

theorem Chip.meetTaken_keeps (c : Chip) : c.Keeps c.meetTaken := by
  have hcancel : c.Keeps (if c.job.promoCancel then c.cancelCurrent else c) := by
    split
    · exact c.cancelCurrent_keeps
    · exact .refl c
  unfold Chip.meetTaken
  extract_lets c1
  split
  · split
    · exact hcancel.then_watched (Chip.faultCurrent_watched _)
    · split
      · exact (hcancel.trans (Chip.stopCurrent_keeps _)).then_watched (Chip.dryUnlessPresenting_watched _)
      · exact hcancel
  · exact hcancel

/-! ### Starts, and the ends of feeds and calibrations -/

@[simp] theorem Chip.handover_watched (s : Settings) (n : Nat) (c : Chip) : (c.handover s n).watched = c.watched := rfl

@[simp] theorem SensorScanner.meetKind_headClosed (k : MediaKind) (s : SensorScanner) :
    (s.meetKind k).headClosed = s.headClosed := by
  unfold SensorScanner.meetKind
  split <;> rfl

/-- The Scanner matters to the invariants by its debounced HEAD_CLOSED alone (R162). -/
theorem Chip.scanner_watched (c : Chip) (s : SensorScanner) (h : s.headClosed.debounced = c.scanner.headClosed.debounced) :
    ({ c with scanner := s } : Chip).watched = c.watched := by
  simp only [Chip.watched, Chip.supplyWanted, h]

theorem Chip.beginCopy_keeps (t : Ticket) (s : Settings) (c : Chip) : c.Keeps (c.beginCopy t s) := by
  have hmotion : c.Keeps { c with motion := c.motion.giveAlignment } :=
    .of_motion fun h => Nat.le_trans c.motion.giveAlignment_edges_le h
  refine Chip.Keeps.trans (hmotion.trans (.of_job (j := (c.beginCopy t s).job) ?_)) (.of_watched rfl)
  intro h
  simp only [Chip.beginCopy]
  split
  · exact h
  · exact h

theorem Chip.beginFeed_keeps (t : Ticket) (c : Chip) : c.Keeps (c.beginFeed t) := by
  have hmotion : c.Keeps { c with motion := (c.beginFeed t).motion } := by
    refine .of_motion fun h => ?_
    simp only [Chip.beginFeed]
    split
    · exact Nat.le_trans (c.motion.giveLabelFeed_edges_le _) h
    · exact h
  exact hmotion.trans (.of_job fun h => h)

theorem Chip.beginCalibration_keeps (c : Chip) : c.Keeps c.beginCalibration := by
  have hjob : c.Keeps { c with job := c.beginCalibration.job } := .of_job fun h => h
  exact hjob.then_watched rfl

theorem Chip.proceedStart_keeps (c : Chip) : c.Keeps c.proceedStart := by
  have h1 : c.Keeps { c with job := { c.job with starting := false } } := .of_watched rfl
  unfold Chip.proceedStart
  simp only
  split
  · next t s _ _ =>
    split
    · have h2 : c.Keeps (Chip.handover s (t.speed.getD s.defaultSpeed)
          { c with job := { c.job with starting := false }, scanner := c.scanner.meetKind s.mediaKind }) :=
        h1.then_watched ((Chip.handover_watched _ _ _).trans
          (Chip.scanner_watched { c with job := { c.job with starting := false } } _ (by simp)))
      split
      · exact (h2.trans (Chip.beginCopy_keeps t s _)).trans (Chip.settleMotion_keeps _)
      · exact (h2.trans (Chip.beginFeed_keeps t _)).trans (Chip.settleMotion_keeps _)
      · exact (h2.trans (Chip.beginCalibration_keeps _)).trans (Chip.settleMotion_keeps _)
    · exact h1
  · exact h1

@[simp] theorem Chip.feedComplete_watched (o : Outcome) (c : Chip) : (c.feedComplete o).watched = c.watched := by
  simp [Chip.feedComplete]

theorem Chip.noteCalibration_keeps (c : Chip) : c.Keeps c.noteCalibration := c.report_keeps fun _ h => h

theorem Chip.endCalibration_keeps (o : Outcome) (n : Nat) (c : Chip) : c.Keeps (c.endCalibration o n) := by
  refine Chip.Keeps.then_watched ?_ (Chip.feedComplete_watched o _)
  exact (Chip.report_keeps (f := fun r => { r with measuredPitch := n }) _ fun _ h => h).after_watched rfl

theorem Chip.calibrationSampled_keeps (a b : Nat) (c : Chip) : c.Keeps (c.calibrationSampled a b) := by
  unfold Chip.calibrationSampled
  let c1 := ({ c with job := { c.job with samplingReported := false } } : Chip).report fun r =>
    { r with sensorMin := a, sensorMax := b }
  have h1 : c.Keeps c1 :=
    (Chip.report_keeps (f := fun r => { r with sensorMin := a, sensorMax := b }) _ fun _ h => h).after_watched rfl
  let c2 := ({ c1 with scanner := { c1.scanner with
      calibratedThreshold := (a + b) / 2, calibratedHysteresis := min 63 ((b - a) / 8) } } : Chip).noteCalibration
  have h2 : c.Keeps c2 := h1.trans ((Chip.noteCalibration_keeps _).after_watched rfl)
  simp only
  split
  · exact (h1.trans c1.noteCalibration_keeps).trans (Chip.endCalibration_keeps _ _ _)
  · split
    · exact h2.trans (Chip.endCalibration_keeps _ _ _)
    · exact (h2.trans (.of_motion fun _ => Nat.zero_le _)).then_watched rfl

/-! ### Burns -/

theorem Chip.endBurn_keeps (c : Chip) : c.Keeps c.endBurn := by
  have h1 : c.Keeps ({ c with burn := c.burn.finish } : Chip).checkDwell :=
    (Chip.checkDwell_keeps _).after_watched rfl
  unfold Chip.endBurn
  simp only
  split
  · exact h1
  · split
    · exact h1.trans (Chip.copyComplete_keeps _ _)
    · exact h1

theorem Chip.lineStart_keeps (n : Nat) (c : Chip) : c.Keeps (c.lineStart n) := by
  unfold Chip.lineStart
  split
  · next r _ =>
    extract_lets b groups plan c1 c2
    have h1 : c.Keeps c1 := .of_watched rfl
    have h2 : c.Keeps c2 := by
      simp only [c2]
      split
      · exact h1.trans (c1.report_keeps RunningResult.addSplit_saturated)
      · exact h1
    clear_value c2 plan
    cases plan with
    | some _ => exact h2
    | none => exact h2.trans c2.endBurn_keeps
  · exact .refl c

/-! ### The Scanner's results -/

@[simp] theorem SensorScanner.request_headClosed (now : Nat) (r : Request) (s : SensorScanner) :
    (s.request now r).headClosed = s.headClosed := by
  unfold SensorScanner.request
  repeat' split
  all_goals rfl

@[simp] theorem SensorScanner.chooseNext_headClosed (now : Nat) (s : SensorScanner) :
    (s.chooseNext now).headClosed = s.headClosed := by
  unfold SensorScanner.chooseNext
  split <;> rfl

@[simp] theorem SensorScanner.takeCode_headClosed (w : Conversion) (code : Code) (s : SensorScanner) :
    (s.takeCode w code).headClosed = s.headClosed := by
  cases w <;> rfl

@[simp] theorem SensorScanner.classify_headClosed (v : Nat) (p : Position) (s : SensorScanner) :
    (s.classify v p).1.headClosed = s.headClosed := by
  unfold SensorScanner.classify
  simp only
  split
  · rfl
  · split <;> rfl

/-- A dot test that goes on is the invariants' own: that it is TESTING is all they speak of (R162). -/
theorem Chip.testing_watched (c : Chip) (p : TestProgress) (h : c.protection.test.isTesting = true) :
    ({ c with protection := { c.protection with test := .testing p } } : Chip).watched = c.watched := by
  simp only [Chip.watched, Chip.supplyWanted, h]
  rfl

@[simp] theorem Chip.startPulse_watched (c : Chip) : c.startPulse.watched = c.watched := by
  unfold Chip.startPulse
  split
  · next p hp =>
    split
    · exact c.testing_watched _ (by rw [hp]; rfl)
    · rfl
  · rfl

theorem Chip.calibrationEdge_keeps (e : Position) (n : Nat) (c : Chip) : c.Keeps (c.calibrationEdge e n) := by
  unfold Chip.calibrationEdge
  simp only
  split
  · exact .of_watched rfl
  · refine Chip.Keeps.trans (.of_motion fun h => ?_) (Chip.endCalibration_keeps _ _ _)
    exact Nat.le_trans (List.length_drop ▸ Nat.sub_le _ _) h

theorem Chip.edgeQueued_keeps (e : Position) (n : Nat) (c : Chip) : c.Keeps (c.edgeQueued e n) := by
  unfold Chip.edgeQueued
  split
  · exact .of_motion fun h => Nat.le_trans c.motion.seek_edges_le h
  · exact .of_motion fun h => Nat.le_trans c.motion.seek_edges_le h
  · split
    · exact c.calibrationEdge_keeps e n
    · exact .refl c
  · exact .refl c

@[simp] theorem Chip.clearSearch_watched (c : Chip) : c.clearSearch.watched = c.watched := by
  unfold Chip.clearSearch
  split <;> rfl

/-- An edge joins a queue that has room for it (R136). -/
theorem Chip.joinEdge_keeps (e : Position) (pitch : Nat) {c d : Chip} (h : c.Keeps d) :
    c.Keeps (if d.motion.edgeQueue.length < Config.edgeQueueCapacity then
        (({ d with motion := { d.motion with edgeQueue := d.motion.edgeQueue ++ [e] } } : Chip).edgeQueued
          e pitch).clearSearch
      else d) := by
  split
  · next hroom =>
    refine Chip.Keeps.then_watched (h.trans ?_) (Chip.clearSearch_watched _)
    refine Chip.Keeps.trans (.of_motion fun _ => ?_) (Chip.edgeQueued_keeps e pitch _)
    rw [List.length_append]
    exact hroom
  · exact h

theorem Chip.topEdge_keeps (e : Position) (c : Chip) : c.Keeps (c.topEdge e) := by
  unfold Chip.topEdge
  extract_lets duplicate
  split
  · exact .refl c
  · refine Chip.joinEdge_keeps e _ (Chip.Keeps.trans ?_ (.of_motion fun h => h))
    dsimp +zetaDelta only
    split
    · exact .refl c
    · refine (Chip.report_keeps _ fun r h => ?_).after_watched rfl
      split <;> exact h

theorem Chip.countGap_keeps (m : MediaState) (c : Chip) : c.Keeps (c.countGap m) := by
  unfold Chip.countGap
  extract_lets run c1
  split
  · exact (Chip.fault_keeps _ _).after_watched rfl
  · exact .of_watched rfl

theorem Chip.sampleReport_keeps (m : MediaState) (e : Option Position) (c : Chip) : c.Keeps (c.sampleReport m e) := by
  refine Chip.Keeps.trans ?_ (Chip.countGap_keeps m _)
  refine Chip.Keeps.trans ?_ (Chip.settleMotion_keeps _)
  cases e with
  | none => exact .refl c
  | some p => exact c.topEdge_keeps p

theorem Chip.checkSampled_keeps (c : Chip) : c.Keeps c.checkSampled := by
  unfold Chip.checkSampled
  split
  · split
    · exact .refl c
    · exact (c.calibrationSampled_keeps _ _).trans (Chip.settleMotion_keeps _)
  · exact .refl c

theorem Chip.mediaSample_keeps (code : Code) (p : Position) (b : Bool) (c : Chip) : c.Keeps (c.mediaSample code p b) := by
  unfold Chip.mediaSample
  simp only
  split
  · exact (Chip.checkSampled_keeps _).after_watched rfl
  · exact (Chip.sampleReport_keeps _ _ _).after_watched (Chip.scanner_watched _ _ (by simp))

@[simp] theorem Chip.judgeThermal_watched (l : ProtectionLimits) (code : Code) (c : Chip) :
    (c.judgeThermal l code).watched = c.watched := by
  unfold Chip.judgeThermal
  split
  · split <;> rfl
  · split <;> rfl

theorem Chip.judgeTherm_keeps (code : Code) (c : Chip) : c.Keeps (c.judgeTherm code) := by
  unfold Chip.judgeTherm
  split
  · exact .refl c
  · simp only
    split
    · exact (Chip.trip_keeps _ _).after_watched (Chip.judgeThermal_watched _ _ _)
    · exact .of_watched (Chip.judgeThermal_watched _ _ _)

theorem Chip.judgeSupply_keeps (code : Code) (c : Chip) : c.Keeps (c.judgeSupply code) := by
  unfold Chip.judgeSupply
  split
  · split
    · simp only
      split
      · exact (Chip.trip_keeps _ _).after_watched rfl
      · exact .of_watched rfl
    · exact .of_watched rfl
  · exact .refl c

@[simp] theorem Chip.publish_watched (d : Dots) (c : Chip) : (c.publish d).watched = c.watched := rfl

theorem Chip.testPassed_keeps (d : Dots) (c : Chip) : c.Keeps (c.testPassed d) := by
  refine Chip.Keeps.then_watched ?_ (Chip.publish_watched d _)
  exact Chip.KeepsParts.examine ⟨id, id, id, id, id⟩

theorem Chip.judgeDot_keeps (p : TestProgress) (code : Code) (c : Chip) (h : c.protection.test.isTesting = true) :
    c.Keeps (c.judgeDot p code) := by
  unfold Chip.judgeDot
  simp only
  split
  · exact c.testPassed_keeps _
  · exact .of_watched (c.testing_watched _ h)

theorem Chip.takeCurrent_keeps (code : Code) (c : Chip) : c.Keeps (c.takeCurrent code) := by
  unfold Chip.takeCurrent
  split
  · next p hp =>
    have h : c.protection.test.isTesting = true := by rw [hp]; rfl
    split
    · exact c.judgeDot_keeps p code h
    · exact .of_watched (c.testing_watched _ h)
    · exact .refl c
  · exact .refl c

theorem Chip.checkRibbon_keeps (c : Chip) : c.Keeps c.checkRibbon := by
  unfold Chip.checkRibbon
  simp only
  split
  · exact (Chip.fault_keeps _ _).after_watched rfl
  · split <;> exact .of_watched rfl

theorem Chip.ribbonLine_keeps (b : Bool) (c : Chip) : c.Keeps (c.ribbonLine b) := by
  unfold Chip.ribbonLine
  split
  · exact .refl c
  · split
    · exact .of_watched rfl
    · simp only
      split
      · exact (Chip.checkRibbon_keeps _).after_watched rfl
      · exact .of_watched rfl

/-! ### The Composer -/

@[simp] theorem Chip.compose_watched (w : ComposerWork) (c : Chip) : (c.compose w).watched = c.watched := rfl
@[simp] theorem Chip.askRead_watched (p : Purpose) (a n : Nat) (c : Chip) : (c.askRead p a n).watched = c.watched := rfl

@[simp] theorem Chip.continueBuild_watched (g : CopyGeometry) (todo : List Nat) (acc : List PendingEntry) (c : Chip) :
    (c.continueBuild g todo acc).watched = c.watched := by
  unfold Chip.continueBuild
  split
  · rfl
  · split <;> rfl

@[simp] theorem Chip.beginBuild_watched (n : Nat) (c : Chip) : (c.beginBuild n).watched = c.watched := by
  unfold Chip.beginBuild
  split
  · rfl
  · simp only [Chip.continueBuild_watched]; rfl

@[simp] theorem Chip.continueSizing_watched (g : CopyGeometry) (o : PrintObject) (h : GlyphHeader) (w : BuildWork)
    (c : Chip) : (c.continueSizing g o h w).watched = c.watched := by
  unfold Chip.continueSizing
  split
  · exact Chip.continueBuild_watched _ _ _ c
  · rfl

@[simp] theorem Chip.buildHeaderRead_watched (d : List Byte) (c : Chip) : (c.buildHeaderRead d).watched = c.watched := by
  unfold Chip.buildHeaderRead
  split
  · split
    · rfl
    · simp only
      split
      · exact Chip.continueSizing_watched _ _ _ _ c
      · exact Chip.continueBuild_watched _ _ _ c
  · rfl

@[simp] theorem Chip.buildEntryRead_watched (d : List Byte) (c : Chip) : (c.buildEntryRead d).watched = c.watched := by
  unfold Chip.buildEntryRead
  split
  · split
    · exact Chip.continueSizing_watched _ _ _ _ c
    · rfl
  · rfl

/-- A line joins a store that has room for it (R66). -/
theorem Chip.Keeps.appendLine {c d : Chip} (h : c.Keeps d) (r : LineRecord)
    (hroom : c.composer.store.length ≤ 32 → d.composer.store.length < Config.lineStoreCapacity) :
    c.Keeps (d.appendLine r) := by
  have happ : ∀ k : Composer, k.store = d.composer.store ++ [r] → c.Keeps { d with composer := k } := by
    intro k hk
    refine ⟨⟨h.areas, fun hs => ?_, h.edges, h.result, h.gate⟩, h.supply⟩
    rw [hk, List.length_append]
    exact hroom hs
  unfold Chip.appendLine
  simp only
  split
  · split
    · exact happ _ rfl
    · split
      · exact (happ _ rfl).then_watched (Chip.startComposition_watched _ _)
      · exact happ _ rfl
  · exact happ _ rfl

theorem Chip.completeLine_keeps (r : LineRecord) (c : Chip) : c.Keeps (c.completeLine r) := by
  unfold Chip.completeLine
  split
  · next h => exact (Chip.Keeps.refl c).appendLine r fun _ => h
  · exact .of_watched rfl

theorem Chip.continueDraw_keeps (g : CopyGeometry) (todo : List Nat) (line : Dots) (c : Chip) :
    c.Keeps (c.continueDraw g todo line) := by
  unfold Chip.continueDraw
  split
  · exact c.completeLine_keeps _
  · split
    · exact .refl c
    · exact .of_watched rfl

theorem Chip.sourceRead_keeps (d : List Byte) (c : Chip) : c.Keeps (c.sourceRead d) := by
  unfold Chip.sourceRead
  split
  · simp only
    split
    · exact .of_watched rfl
    · exact (Chip.continueDraw_keeps _ _ _ _).after_watched rfl
  · exact .refl c

theorem Chip.reportTally_keeps (t : Tally) (c : Chip) : c.Keeps (c.report (RunningResult.take t)) :=
  c.report_keeps (RunningResult.take_saturated t)

theorem Chip.report_composer (f : RunningResult → RunningResult) (c : Chip) : (c.report f).composer = c.composer := by
  rw [Chip.report_eq]

/-- A report beside a change of the Composer that leaves the Line Store. -/
theorem Chip.reportTally_composer_keeps (t : Tally) (c : Chip) (k : Composer) (h : k.store = c.composer.store) :
    c.Keeps { c.report (RunningResult.take t) with composer := k } :=
  (c.reportTally_keeps t).trans (.of_composer fun hs => by rw [Chip.report_composer] at hs; rw [h]; exact hs)

theorem Chip.continueEnter_keeps (g : CopyGeometry) (todo : List PendingEntry) (c : Chip) :
    c.Keeps (c.continueEnter g todo) := by
  unfold Chip.continueEnter
  simp only
  split
  · exact (Chip.continueDraw_keeps _ _ _ _).after (c.reportTally_composer_keeps _ _ rfl)
  · split
    · exact .refl c
    · exact (c.reportTally_composer_keeps _ _ rfl).then_watched (Chip.askRead_watched _ _ _ _)

theorem Chip.omitEntry_keeps (g : CopyGeometry) (w : EnterWork) (c : Chip) : c.Keeps (c.omitEntry g w) :=
  (c.reportTally_keeps _).trans (Chip.continueEnter_keeps _ _ _)

theorem Chip.enterStrip_keeps (g : CopyGeometry) (o : PrintObject) (h : GlyphHeader) (w : EnterWork) (c : Chip) :
    c.Keeps (c.enterStrip g o h w) :=
  (Chip.continueEnter_keeps _ _ _).after (c.reportTally_composer_keeps _ _ rfl)

theorem Chip.continueCheck_keeps (g : CopyGeometry) (o : PrintObject) (h : GlyphHeader) (w : EnterWork) (c : Chip) :
    c.Keeps (c.continueCheck g o h w) := by
  unfold Chip.continueCheck
  split
  · exact c.enterStrip_keeps g o h w
  · exact .of_watched rfl

theorem Chip.entryHeaderRead_keeps (d : List Byte) (c : Chip) : c.Keeps (c.entryHeaderRead d) := by
  unfold Chip.entryHeaderRead
  split
  · split
    · exact .refl c
    · simp only
      split
      · exact c.continueCheck_keeps _ _ _ _
      · exact c.omitEntry_keeps _ _
  · exact .refl c

theorem Chip.entryGlyphRead_keeps (d : List Byte) (c : Chip) : c.Keeps (c.entryGlyphRead d) := by
  unfold Chip.entryGlyphRead
  split
  · split
    · simp only
      split
      · exact c.continueCheck_keeps _ _ _ _
      · exact c.omitEntry_keeps _ _
    · exact .refl c
  · exact .refl c

theorem Chip.composeLine_keeps (c : Chip) : c.Keeps c.composeLine := by
  unfold Chip.composeLine
  split
  · exact (Chip.continueEnter_keeps _ _ _).after_watched rfl
  · exact .refl c

end Sys2Proof.Machine
end

section
/-! What each access of job memory leads to, the Memory Port, and Engine Control's transitions keep the invariants
of the part (`Chip.Keeps`). -/

namespace Sys2Proof.Machine

open Sys2Proof

/-! ### Settings loads, looks and fetches -/

theorem Chip.finishLoading_keeps (c : Chip) : c.Keeps c.finishLoading := by
  unfold Chip.finishLoading
  extract_lets c1
  have h1 : c1.watched = c.watched := by
    simp only [c1]
    split <;> rfl
  refine Chip.Keeps.then_watched ?_ (Chip.lookTrigger_watched _)
  have h2 : c1.KeepsParts { c1 with
      job := { c1.job with jobState := .dry }, engine := { c1.engine with state := .running } } :=
    ⟨id, id, id, id, id⟩
  exact h2.examine.after_watched h1

theorem Chip.beginTest_keeps (c : Chip) : c.Keeps c.beginTest := by
  unfold Chip.beginTest
  split
  · extract_lets progress protection burn c1
    have h1 : c.Keeps c1 := Chip.KeepsParts.examine ⟨id, id, id, id, id⟩
    split
    · exact h1.trans c1.abandonTest_keeps
    · exact h1
  · exact .refl c

theorem Chip.loadPointEnds_keeps (p : LoadPoint) (c : Chip) : c.Keeps (c.loadPointEnds p) := by
  cases p with
  | loading => exact .of_watched rfl
  | copyStart => exact c.proceedStart_keeps
  | dotTest => exact c.beginTest_keeps
  | look => exact .of_watched rfl

theorem Chip.generationRead_keeps (p : LoadPoint) (gen : Word) (c : Chip) : c.Keeps (c.generationRead p gen) := by
  unfold Chip.generationRead
  split
  · exact c.loadPointEnds_keeps p
  · exact .of_watched rfl

@[simp] theorem Chip.takeSettings_watched (gen : Word) (block : List Byte) (c : Chip) :
    (c.takeSettings gen block).watched = c.watched := by
  unfold Chip.takeSettings
  simp only
  split <;> rfl

theorem Chip.generationReread_keeps (p : LoadPoint) (gen : Word) (block : List Byte) (again : Word) (c : Chip) :
    c.Keeps (c.generationReread p gen block again) := by
  unfold Chip.generationReread
  split
  · exact (Chip.loadPointEnds_keeps p _).after_watched (c.takeSettings_watched gen block)
  · split
    · exact .of_watched rfl
    · exact c.loadPointEnds_keeps p

theorem Chip.linkRead_keeps (v : Word) (c : Chip) : c.Keeps (c.linkRead v) := by
  unfold Chip.linkRead
  extract_lets job c1
  have h1 : c1.watched = c.watched := rfl
  split
  · refine .of_watched ((Chip.endLook_watched _).trans ?_)
    split
    · exact c1.raiseDry_watched.trans h1
    · exact h1
  · split
    · exact .of_watched rfl
    · exact (Chip.reportFault_keeps _ _ _).after_watched rfl

@[simp] theorem Chip.startFetch_watched (a : Word) (h : List Byte) (c : Chip) :
    (c.startFetch a h).watched = c.watched := by
  unfold Chip.startFetch
  simp only
  split <;> rfl

@[simp] theorem Chip.headerRead_watched (a : Word) (h : List Byte) (c : Chip) :
    (c.headerRead a h).watched = c.watched := by
  unfold Chip.headerRead
  split
  · split
    · exact c.startFetch_watched a h
    · exact c.endLook_watched
  · rfl
  · exact c.endLook_watched

/-! ### Promotions and chain walks -/

@[simp] theorem Chip.leavePromotion_watched (c : Chip) : c.leavePromotion.watched = c.watched := rfl
@[simp] theorem Chip.emptyBuffer_watched (c : Chip) : c.emptyBuffer.watched = c.watched := rfl

@[simp] theorem Chip.afterPromotion_watched (c : Chip) : c.afterPromotion.watched = c.watched := by
  simp [Chip.afterPromotion]

@[simp] theorem Chip.stateReread_watched (n : Nat) (c : Chip) : (c.stateReread n).watched = c.watched := by
  unfold Chip.stateReread
  simp only
  split
  · simp
  · split
    · rfl
    · split
      · split <;> rfl
      · simp
      · simp

@[simp] theorem Chip.refused_watched (c : Chip) : c.refused.watched = c.watched := by
  simp [Chip.refused]

theorem Chip.taken_keeps (c : Chip) : c.Keeps c.taken := by
  unfold Chip.taken
  split
  · next t _ =>
    exact ((c.takeTicket_keeps t).trans (Chip.meetTaken_keeps _)).then_watched (by simp)
  · exact .of_watched rfl

theorem Chip.walkLinkRead_keeps (v : Word) (c : Chip) : c.Keeps (c.walkLinkRead v) := by
  unfold Chip.walkLinkRead
  split
  · exact .of_watched c.endWalk_watched
  · split
    · exact .of_watched rfl
    · exact (c.reportFault_keeps _ _).then_watched (Chip.endWalk_watched _)

@[simp] theorem Chip.walkHeaderRead_watched (a : Word) (h : List Byte) (c : Chip) :
    (c.walkHeaderRead a h).watched = c.watched := by
  unfold Chip.walkHeaderRead
  split
  · rfl
  · rfl
  · exact c.endWalk_watched

@[simp] theorem Chip.ended_watched (c : Chip) : c.ended.watched = c.watched := by
  rw [Chip.ended, Chip.lookTrigger_watched, Chip.tryWalk_watched]; rfl

/-! ### Completed and failed accesses -/

theorem Chip.badDots_watched (c : Chip) (d : Dots) :
    ({ c with protection := { c.protection with badDots := d } } : Chip).watched = c.watched := rfl

theorem Chip.accessDone_keeps (p : Purpose) (data : List Byte) (c : Chip) : c.Keeps (c.accessDone p data) := by
  cases p with
  | loadHeld | settingsBlock _ _ | loadResources | refuseHeld | walkHeld _ => exact .of_watched (Chip.ask_watched _ _ _)
  | faultRecord | faultRewrite | publishMap | publishCount | heldWrite | endResult | endNextValue => exact .refl c
  | publishPassed | publishAbandoned => exact .of_watched (c.raise_watched _)
  | fetchRest _ _ => exact .of_watched (c.job_watched _ rfl)
  | refuseResult | walkResult _ => exact .of_watched (c.hold_watched _ _)
  | walkState => exact .of_watched (Chip.stepWalk_watched _)
  | settingsFirst p => exact c.generationRead_keeps p _
  | settingsSecond p gen block => exact c.generationReread_keeps p gen block _
  | loadBadDots => exact (Chip.finishLoading_keeps _).after_watched (c.badDots_watched (rowOfBytes data))
  | lookLink => exact c.linkRead_keeps _
  | lookHeader a => exact .of_watched (c.headerRead_watched a data)
  | promotionState => exact .of_watched (c.stateReread_watched _)
  | refuseState => exact .of_watched c.refused_watched
  | takenState => exact c.taken_keeps
  | walkLink => exact c.walkLinkRead_keeps _
  | walkHeader a => exact .of_watched (c.walkHeaderRead_watched a data)
  | endState => exact .of_watched c.ended_watched
  | resourceTable n => exact .of_watched (Chip.beginBuild_watched n _)
  | buildHeader => exact .of_watched (c.buildHeaderRead_watched data)
  | buildEntry => exact .of_watched (c.buildEntryRead_watched data)
  | entryHeader => exact c.entryHeaderRead_keeps data
  | entryGlyph => exact c.entryGlyphRead_keeps data
  | source => exact c.sourceRead_keeps data

@[simp] theorem Chip.failLook_watched (c : Chip) : c.failLook.watched = c.watched :=
  c.job_watched _ c.job.dropLook_result

@[simp] theorem Chip.dropWalk_watched (c : Chip) : c.dropWalk.watched = c.watched := by
  unfold Chip.dropWalk
  split <;> rfl

@[simp] theorem Chip.promotionFailed_watched (c : Chip) : c.promotionFailed.watched = c.watched := by
  simp [Chip.promotionFailed]

theorem Chip.recordFailed_keeps (c : Chip) : c.Keeps c.recordFailed := by
  unfold Chip.recordFailed
  split
  · exact c.reportFault_keeps _ _
  · simp only
    split <;> exact .of_watched rfl

/-- What a requester does at a bus error keeps the invariants: only the start of a dot test, which it abandons,
touches what they speak of. -/
theorem Chip.abandonAccess_keeps (p : Purpose) (c : Chip) : c.Keeps (c.abandonAccess p) := by
  have starting : c.Keeps { c with job := { c.job with starting := false } } := .of_watched rfl
  have look : c.Keeps c.failLook := .of_watched c.failLook_watched
  cases p with
  | settingsFirst p =>
    cases p with
    | loading => exact .refl c
    | copyStart => exact starting
    | dotTest => exact c.abandonTest_keeps
    | look => exact look
  | settingsBlock p _ =>
    cases p with
    | loading => exact .refl c
    | copyStart => exact starting
    | dotTest => exact c.abandonTest_keeps
    | look => exact look
  | settingsSecond p _ _ =>
    cases p with
    | loading => exact .refl c
    | copyStart => exact starting
    | dotTest => exact c.abandonTest_keeps
    | look => exact look
  | lookLink | lookHeader _ => exact look
  | promotionState => exact .of_watched (Chip.tryWalk_watched _)
  | refuseResult | refuseState | takenState => exact .of_watched c.promotionFailed_watched
  | refuseHeld => exact .of_watched (Chip.promotionFailed_watched _)
  | heldWrite => exact .of_watched (Chip.dropWalk_watched _)
  | _ => exact .of_watched rfl

theorem Chip.accessFailed_keeps (p : Purpose) (start : Nat) (c : Chip) : c.Keeps (c.accessFailed p start) := by
  unfold Chip.accessFailed
  split
  · exact c.recordFailed_keeps
  · exact (c.abandonAccess_keeps p).trans (Chip.reportFault_keeps _ _ _)

/-! ### The Memory Port -/

theorem Chip.issueAccesses_keeps (n : Nat) (c : Chip) : c.Keeps (c.issueAccesses n) := by
  induction n generalizing c with
  | zero => exact .refl c
  | succ n ih =>
    unfold Chip.issueAccesses
    split
    · exact .refl c
    · simp only
      split
      · exact (ih _).after ((Chip.accessFailed_keeps _ _ _).after_watched rfl)
      · exact (ih _).after_watched rfl

theorem Chip.settlePort_keeps (c : Chip) : c.Keeps c.settlePort := (c.issueAccesses_keeps _).then_watched rfl

theorem Chip.burstDone_keeps (b : Burst) (read : List Byte) (c : Chip) : c.Keeps (c.burstDone b read) := by
  unfold Chip.burstDone
  simp only
  split
  · exact .of_watched rfl
  · split
    · exact .of_watched rfl
    · split
      · exact .of_watched rfl
      · exact (Chip.accessDone_keeps _ _ _).after_watched rfl

theorem Chip.burstFailed_keeps (b : Burst) (c : Chip) : c.Keeps (c.burstFailed b) := by
  unfold Chip.burstFailed
  simp only
  split
  · exact (Chip.reportFault_keeps _ _ _).after_watched rfl
  · exact (Chip.accessFailed_keeps _ _ _).after_watched rfl

/-! ### Engine Control's transitions -/

theorem areaLegal_zero : areaLegal 0 = true := rfl

/-- What a write keeps is an address that AREA can hold (R1). -/
theorem areaLegal_masked (v : Word) : areaLegal (v &&& areaMask) = true := by
  simp only [areaLegal, decide_eq_true_eq, BitVec.and_assoc]
  rw [show areaMask &&& ~~~areaMask = 0 from rfl]
  exact BitVec.and_zero

theorem EngineControl.areasLegal_iff (e : EngineControl) :
    e.areasLegal = true ↔ areaLegal e.area = true ∧ areaLegal e.areaInUse = true := by
  simp [EngineControl.areasLegal]

theorem Chip.writeArea_keeps (v : Word) (c : Chip) : c.Keeps { c with engine := c.engine.writeArea v } := by
  refine ⟨⟨fun h => ?_, id, id, id, id⟩, id⟩
  rw [EngineControl.areasLegal_iff] at h ⊢
  exact ⟨areaLegal_masked v, h.2⟩

theorem Chip.enterLoading_keeps (c : Chip) : c.Keeps c.enterLoading := by
  refine Chip.Keeps.then_watched ?_ (Chip.ask_watched _ _ _)
  refine Chip.KeepsParts.examine ⟨fun h => ?_, id, fun _ => Nat.zero_le _, id, id⟩
  rw [EngineControl.areasLegal_iff] at h ⊢
  exact ⟨h.1, h.1⟩

theorem Chip.enterStopped_keeps (c : Chip) : c.Keeps c.enterStopped :=
  Chip.KeepsParts.examine ⟨id, fun _ => Nat.zero_le _, id, fun _ => rfl, id⟩

@[simp] theorem Chip.stopSuccessor_watched (c : Chip) : c.stopSuccessor.watched = c.watched := by
  unfold Chip.stopSuccessor
  split <;> rfl

theorem Chip.stopHalted_keeps (c : Chip) : c.Keeps c.stopHalted := by
  unfold Chip.stopHalted
  split
  · exact .refl c
  · extract_lets engine protection job c1 c2
    have h1 : c.KeepsParts c1 := ⟨id, id, id, id, id⟩
    have h2 : c.Keeps c2 := h1.examine.then_watched (Chip.faultCurrent_watched _)
    split
    · exact h2.trans c2.enterStopped_keeps
    · exact h2

@[simp] theorem Chip.abandonTest_state (c : Chip) : c.abandonTest.engine.state = c.engine.state := by
  unfold Chip.abandonTest
  split
  · rfl
  · rw [Chip.ask_engine, Chip.examineSupply_eq]; rfl

/-- RUNNING and STOPPING ask for the supply alike (R162). -/
theorem Chip.toStopping_watched (c : Chip) (h : c.engine.state = .running) :
    ({ c with engine := { c.engine with state := .stopping } } : Chip).watched = c.watched := by
  simp [Chip.watched, Chip.supplyWanted, h]

theorem Chip.stop_keeps (c : Chip) : c.Keeps c.stop := by
  unfold Chip.stop
  extract_lets c1
  have h1 : c.Keeps c1 := c.abandonTest_keeps
  split
  · exact h1.trans ((Chip.enterStopped_keeps _).after_watched (Chip.withdraw_watched _ _ _))
  · next hs =>
    refine h1.trans ((Chip.stopByJobState_keeps _).after_watched ((Chip.stopSuccessor_watched _).trans ?_))
    exact c1.toStopping_watched (c.abandonTest_state.trans hs)
  · exact h1.trans c1.stopHalted_keeps
  · exact h1

@[simp] theorem Chip.againHeld_watched (c : Chip) : c.againHeld.watched = c.watched := by
  unfold Chip.againHeld
  split <;> rfl

@[simp] theorem Chip.againEnd_watched (c : Chip) : c.againEnd.watched = c.watched := by
  unfold Chip.againEnd
  split
  · rfl
  · split
    · exact Chip.askEndWrites_watched _ _
    · rfl

theorem Chip.dealFaulted_keeps (c : Chip) : c.Keeps c.dealFaulted := by
  unfold Chip.dealFaulted
  split
  · exact .refl c
  · split
    · split
      · exact c.flush_keeps.then_watched rfl
      · exact .of_watched c.faultCurrent_watched
    · exact .refl c

@[simp] theorem Chip.finishPresenting_watched (c : Chip) : c.finishPresenting.watched = c.watched := by
  unfold Chip.finishPresenting
  split
  · exact c.presentationDone_watched
  · rfl

@[simp] theorem Chip.composeInHand_watched (c : Chip) : c.composeInHand.watched = c.watched := by
  unfold Chip.composeInHand
  split
  · rfl
  · split
    · exact Chip.startComposition_watched _ c
    · rfl

/-- What RESUME goes on with once the engine is RUNNING and the supply re-examined (R180). -/
theorem Chip.goOnAfterHalt_keeps (c : Chip) :
    c.Keeps (((c.againHeld.againEnd).dealFaulted.finishPresenting).composeInHand).lookTrigger := by
  have h : c.Keeps c.againHeld.againEnd.dealFaulted := (Chip.dealFaulted_keeps _).after_watched (by simp)
  exact h.then_watched (by simp)

theorem Chip.resume_keeps (c : Chip) : c.Keeps c.resume := by
  unfold Chip.resume
  extract_lets protection engine c1
  have h1 : c.KeepsParts c1 := ⟨id, id, id, id, id⟩
  have loading : c.Keeps c1.releaseComposer.enterLoading := by
    refine Chip.Keeps.then_watched ?_ (Chip.ask_watched _ _ _)
    refine Chip.KeepsParts.examine ((h1.trans c1.releaseComposer_keeps.toKeepsParts).trans
      ⟨fun h => ?_, id, fun _ => Nat.zero_le _, id, id⟩)
    rw [EngineControl.areasLegal_iff] at h ⊢
    exact ⟨h.1, h.1⟩
  split
  · exact loading
  · have h2 : c1.KeepsParts { c1 with engine := { c1.engine with state := .running } } := ⟨id, id, id, id, id⟩
    have h3 := Chip.KeepsParts.examine ((h1.trans h2).trans (Chip.releaseComposer_keeps _).toKeepsParts)
    exact h3.trans (Chip.goOnAfterHalt_keeps _)

theorem Chip.cancelTicket_keeps (c : Chip) : c.Keeps c.cancelTicket := by
  unfold Chip.cancelTicket
  split
  · exact .refl c
  · exact c.cancelCurrent_keeps

@[simp] theorem Chip.cancelSuccessors_watched (c : Chip) : c.cancelSuccessors.watched = c.watched := by
  unfold Chip.cancelSuccessors
  split
  · rfl
  · simp only
    exact Chip.job_watched _ _ (JobController.dropLook_result _)

theorem Chip.cancelChain_keeps (c : Chip) : c.Keeps c.cancelChain := by
  unfold Chip.cancelChain
  split
  · exact .refl c
  · extract_lets c1
    have h1 : c.Keeps c1 := c.cancelCurrent_keeps
    split
    · exact h1
    · exact (h1.then_watched c1.cancelSuccessors_watched).then_watched ((Chip.tryWalk_watched _).trans rfl)

/-- A second DOT TEST taken during the load of the first changes no test that is TESTING (R176). -/
theorem Chip.dotTest_keeps (c : Chip) (h : c.takesDotTest = true) : c.Keeps c.dotTest := by
  simp only [Chip.takesDotTest, Bool.and_eq_true, Bool.not_eq_true'] at h
  refine .of_watched ?_
  simp only [Chip.watched, Chip.supplyWanted, h.2]
  rfl

/-- A reset part meets the invariants wherever AREA was legal (R181). -/
theorem Chip.resetTo_keeps (area : Word) (enables : BitVec 7) (c : Chip)
    (h : c.engine.areasLegal = true → areaLegal area = true) : c.Keeps (c.resetTo area enables) := by
  refine ⟨⟨fun ha => ?_, fun _ => Nat.zero_le _, fun _ => Nat.zero_le _, fun _ => rfl, fun _ => rfl⟩, fun _ => ?_⟩
  · rw [EngineControl.areasLegal_iff]
    exact ⟨h ha, h ha⟩
  · simp [Chip.supplySound, Chip.supplyWanted, Chip.resetTo, Chip.resetWith, EngineControl.resetWith,
      ProtectionUnit.reset, TestState.isTesting, SupplyState.isOn]

@[simp] theorem Chip.startConverter_watched (c : Chip) : c.startConverter.watched = c.watched :=
  c.scanner_watched _ (by simp)

theorem Chip.softReset_keeps (c : Chip) : c.Keeps c.softReset :=
  (c.resetTo_keeps _ _ fun h => (c.engine.areasLegal_iff.1 h).1).then_watched (Chip.startConverter_watched _)

end Sys2Proof.Machine
end

section
/-! What every command answers: a next state that keeps the invariants of the part and, but for the ends of bursts and
a pin reset, job memory (R18); and the statements about every step that follow from it. -/

namespace Sys2Proof.Machine

open Sys2Proof

/-! ### Lines, steps and inputs -/

theorem Chip.takeLine_keeps (c : Chip) : c.Keeps c.takeLine := by
  unfold Chip.takeLine
  split
  · exact .refl c
  · next r store hs =>
    extract_lets burn k c1
    have hlt : c.composer.store.length ≤ 32 → c1.composer.store.length < Config.lineStoreCapacity := by
      rw [hs]
      exact id
    have h1 : c.Keeps c1 := ⟨⟨id, fun h => Nat.le_of_lt (hlt h), id, id, id⟩, id⟩
    split
    · exact h1.appendLine _ hlt
    · exact h1

theorem Chip.periodExpired_keeps (c : Chip) : c.Keeps c.periodExpired := by
  unfold Chip.periodExpired
  refine Chip.Keeps.trans ?_ (Chip.settleMotion_keeps _)
  simp only
  split
  · exact (Chip.report_keeps _ RunningResult.addStretch_saturated).after_watched rfl
  · exact .of_watched rfl

theorem MotionController.dropTarget_edges_le (m : MotionController) :
    m.dropTarget.edgeQueue.length ≤ m.edgeQueue.length := by
  unfold MotionController.dropTarget
  split
  · exact Nat.le_refl _
  · exact (List.drop_sublist _ _).length_le

theorem MotionController.searchOn_edges_le (m : MotionController) :
    m.searchOn.1.edgeQueue.length ≤ m.edgeQueue.length := by
  unfold MotionController.searchOn
  simp only
  split <;> exact MotionController.seek_edges_le { m with searchCount := m.searchCount + 1 }

theorem Chip.gapMissingIf_keeps (b : Bool) (c : Chip) : c.Keeps (c.gapMissingIf b) := by
  unfold Chip.gapMissingIf
  split
  · exact c.fault_keeps _
  · exact .refl c

theorem Chip.alignStep_keeps (t : Option Position) (b : Bool) (c : Chip) : c.Keeps (c.alignStep t b) := by
  have drop : ∀ o, c.Keeps { c with motion := { c.motion.dropTarget with operation := o } } := fun _ =>
    .of_motion fun h => Nat.le_trans c.motion.dropTarget_edges_le h
  unfold Chip.alignStep
  split
  · split
    · split
      · exact (drop _).then_watched rfl
      · exact drop _
    · exact .refl c
  · exact (Chip.gapMissingIf_keeps _ _).after
      (.of_motion fun h => Nat.le_trans c.motion.searchOn_edges_le h)

theorem Chip.labelStep_keeps (n : Nat) (t : Option Position) (c : Chip) : c.Keeps (c.labelStep n t) := by
  unfold Chip.labelStep
  split
  · split
    · split
      · exact Chip.Keeps.then_watched (.of_motion fun h => Nat.le_trans c.motion.dropTarget_edges_le h)
          (Chip.feedComplete_watched _ _)
      · exact .of_motion fun h => Nat.le_trans (Nat.le_trans (MotionController.beginLabels_edges_le _ _)
          c.motion.dropTarget_edges_le) h
    · exact .refl c
  · exact (Chip.gapMissingIf_keeps _ _).after
      (.of_motion fun h => Nat.le_trans c.motion.searchOn_edges_le h)

theorem MotionController.dropThrough_edges_le (t : Position) (m : MotionController) :
    (m.dropThrough t).edgeQueue.length ≤ m.edgeQueue.length :=
  ((List.drop_sublist _ _).trans (List.dropWhile_sublist _)).length_le

theorem Chip.searchStep_keeps (t : Option Position) (n : Nat) (c : Chip) : c.Keeps (c.searchStep t n) := by
  unfold Chip.searchStep
  extract_lets m
  split
  · split
    · exact (Chip.endCalibration_keeps _ _ _).after
        (.of_motion fun h => Nat.le_trans (m.dropThrough_edges_le _) h)
    · exact .of_watched rfl
  · split
    · exact (Chip.endCalibration_keeps _ _ _).after_watched rfl
    · exact .of_watched rfl

@[simp] theorem Chip.presentStep_watched (n : Nat) (c : Chip) : (c.presentStep n).watched = c.watched := by
  unfold Chip.presentStep
  simp only
  split
  · split
    · rw [Chip.presentationDone_watched]; rfl
    · rfl
  · rfl

theorem Chip.progress_keeps (c : Chip) : c.Keeps c.progress := by
  unfold Chip.progress
  split
  · exact c.alignStep_keeps _ _
  · exact .of_watched rfl
  · exact .of_watched (c.presentStep_watched _)
  · split
    · exact .of_watched ((Chip.feedComplete_watched _ _).trans rfl)
    · exact .of_watched rfl
  · exact c.labelStep_keeps _ _
  · split <;> exact .of_watched rfl
  · exact c.searchStep_keeps _ _
  · exact .refl c

theorem Chip.forwardStep_keeps (c : Chip) : c.Keeps c.forwardStep := by
  unfold Chip.forwardStep
  extract_lets line first m s c1
  have hm : c.Keeps { c with motion := m } := .of_motion fun h => by
    rw [MotionController.stepForward_edgeQueue]; exact h
  have hs : ({ c with motion := m, scanner := s } : Chip).watched = ({ c with motion := m } : Chip).watched :=
    Chip.scanner_watched { c with motion := m } s (by rw [SensorScanner.request_headClosed])
  have h1 : c.Keeps c1 := (hm.then_watched hs).trans (Chip.progress_keeps _)
  split
  · exact (h1.trans (Chip.lineStart_keeps _ _)).trans (Chip.ribbonLine_keeps _ _)
  · exact h1

/-- The settle opens the gate with the supply ON (R162, R163). -/
theorem Chip.supplyOn_keeps (t done : Nat) (c : Chip) (h : c.protection.supply = .settling done) :
    c.Keeps (c.supplyOn t) := by
  refine ⟨⟨id, id, id, id, fun _ => rfl⟩, fun hs => ?_⟩
  rw [Chip.supplySound_iff] at hs ⊢
  rw [h] at hs
  exact ⟨hs.1, rfl⟩

theorem Chip.dotShifted_keeps (p : TestProgress) (t : Nat) (c : Chip) (h : c.protection.test.isTesting = true) :
    c.Keeps (c.dotShifted p t) := by
  refine .of_watched ((Chip.startPulse_watched _).trans ?_)
  exact (Chip.scanner_watched _ _ (by simp)).trans (c.testing_watched _ h)

theorem Chip.pulseEnded_keeps (p : TestProgress) (t : Nat) (code : Option Code) (c : Chip)
    (h : c.protection.test.isTesting = true) : c.Keeps (c.pulseEnded p t code) := by
  unfold Chip.pulseEnded
  cases code with
  | none => exact .of_watched (c.testing_watched _ h)
  | some k => exact (Chip.judgeDot_keeps p k (c.advanceTo t) h).after_watched (c.advanceTo_watched t)

theorem Chip.handOn_keeps (w : Conversion) (code : Code) (c : Chip) : c.Keeps (c.handOn w code) := by
  cases w with
  | therm => exact c.judgeTherm_keeps code
  | supply => exact c.judgeSupply_keeps code
  | media p b => exact c.mediaSample_keeps code p b
  | current => exact c.takeCurrent_keeps code

theorem Chip.conversionDone_keeps (code : Code) (c : Chip) : c.Keeps (c.conversionDone code) := by
  refine Chip.Keeps.then_watched ?_ (Chip.startPulse_watched _)
  refine Chip.Keeps.then_watched ?_ (Chip.scanner_watched _ _ (by rw [SensorScanner.chooseNext_headClosed]))
  refine (Chip.handOn_keeps _ code _).after_watched ?_
  exact Chip.scanner_watched (c.advanceTo _) _ (by rw [SensorScanner.takeCode_headClosed])

theorem Chip.encoderMoved_keeps (a b : Bool) (c : Chip) : c.Keeps (c.encoderMoved a b) := by
  unfold Chip.encoderMoved
  simp only
  split
  · exact .refl c
  · split
    · exact (Chip.report_keeps _ RunningResult.addGlitch_saturated).after_watched rfl
    · exact .of_watched rfl

theorem SwitchInput.follow_debounced (now : Nat) (level : Bool) (i : SwitchInput) :
    (i.follow now level).debounced = i.debounced := by
  unfold SwitchInput.follow
  split <;> rfl

theorem Chip.follow_keeps (now : Nat) (k : Switch) (level : Bool) (c : Chip) :
    c.Keeps { c with scanner := c.scanner.follow now k level } := by
  refine .of_watched (c.scanner_watched _ ?_)
  cases k with
  | headClosed => exact SwitchInput.follow_debounced _ _ _
  | taken => rfl

theorem Chip.headChanged_keeps (c : Chip) : c.Keeps c.headChanged := by
  unfold Chip.headChanged
  extract_lets level c0 scanner input c1
  have h1 : c.KeepsParts c1 := ⟨id, id, id, id, id⟩
  split
  · have h2 : c.KeepsParts { c1 with protection := { c1.protection with tripLatch := true } } := ⟨id, id, id, id, id⟩
    exact (h2.examine.trans (Chip.abandonTest_keeps _)).trans (Chip.fault_keeps _ _)
  · exact h1.examine

theorem Chip.takenChanged_keeps (c : Chip) : c.Keeps c.takenChanged := by
  unfold Chip.takenChanged
  simp only
  split
  · exact .of_watched ((Chip.settleJobState_watched _).trans rfl)
  · exact .of_watched rfl

/-! ### The frame of a command -/

/-- The outcome goes on from `s`: it keeps the invariants, and leaves the queue of commands, job memory and the draws
of free values. -/
def State.GoesOn (s : State) (o : Host.Outcome State Fault Refusal) : Prop :=
  ∃ t, o = .next t ∧ s.chip.Keeps t.chip ∧ t.pending = s.pending ∧ t.memory = s.memory ∧ t.freeDraws = s.freeDraws

theorem State.next_goesOn (s : State) : s.GoesOn (.next s) := ⟨s, rfl, .refl _, rfl, rfl, rfl⟩

theorem State.chip_goesOn {s : State} {c : Chip} (h : s.chip.Keeps c) : s.GoesOn (.next { s with chip := c }) :=
  ⟨_, rfl, h, rfl, rfl, rfl⟩

theorem State.refuse_goesOn (s : State) (r : RefusedCommand) :
    s.GoesOn (.next { s with chip := s.chip.refuse r }) :=
  State.chip_goesOn (.of_watched (s.chip.refuse_watched r))

theorem State.command_goesOn {s : State} {taken : Bool} {name : RefusedCommand} {f : Chip → Chip}
    (h : taken = true → s.chip.Keeps (f s.chip)) : s.GoesOn (s.command taken name f) := by
  unfold State.command
  split
  · exact s.next_goesOn
  · split
    · next ht => exact State.chip_goesOn ((h ht).trans (Chip.settlePort_keeps _))
    · exact s.refuse_goesOn name

theorem State.event_goesOn {s : State} {holds : Bool} {f : Chip → Chip} (h : s.chip.Keeps (f s.chip)) :
    s.GoesOn (s.event holds f) := by
  unfold State.event
  split
  · exact State.chip_goesOn (h.trans (Chip.settlePort_keeps _))
  · exact s.next_goesOn

theorem State.inside_goesOn {s : State} {holds : Bool} {f : Chip → Chip} (h : s.chip.Keeps (f s.chip)) :
    s.GoesOn (s.inside holds f) := by
  unfold State.inside
  split
  · exact State.chip_goesOn h
  · exact s.next_goesOn

/-! ### The host's writes -/

theorem execAreaWrite_goesOn (v : Word) (s : State) : s.GoesOn (execAreaWrite v s) := by
  unfold execAreaWrite
  split
  · exact s.next_goesOn
  · split
    · exact State.chip_goesOn (s.chip.writeArea_keeps v)
    · exact s.refuse_goesOn _

theorem execStart_goesOn (s : State) : s.GoesOn (execStart s) :=
  State.command_goesOn fun _ => s.chip.abandonTest_keeps.trans (Chip.enterLoading_keeps _)

theorem execStop_goesOn (s : State) : s.GoesOn (execStop s) := State.command_goesOn fun _ => s.chip.stop_keeps

theorem execLook_goesOn (s : State) : s.GoesOn (execLook s) :=
  State.command_goesOn fun _ => .of_watched s.chip.lookTrigger_watched

theorem execResume_goesOn (s : State) : s.GoesOn (execResume s) := State.command_goesOn fun _ => s.chip.resume_keeps

theorem execCancelTicket_goesOn (s : State) : s.GoesOn (execCancelTicket s) :=
  State.command_goesOn fun _ => s.chip.cancelTicket_keeps

theorem execCancelChain_goesOn (s : State) : s.GoesOn (execCancelChain s) :=
  State.command_goesOn fun _ => s.chip.cancelChain_keeps

theorem execDotTest_goesOn (s : State) : s.GoesOn (execDotTest s) := State.command_goesOn s.chip.dotTest_keeps

theorem execReset_goesOn (s : State) : s.GoesOn (execReset s) := by
  unfold execReset
  split
  · exact s.next_goesOn
  · split
    · exact State.chip_goesOn s.chip.softReset_keeps
    · exact ⟨_, rfl, .refl _, rfl, rfl, rfl⟩

theorem execEventsWrite_goesOn (v : Word) (s : State) : s.GoesOn (execEventsWrite v s) := by
  unfold execEventsWrite
  split
  · exact s.next_goesOn
  · exact State.chip_goesOn (.of_watched rfl)

theorem State.commandWrite_goesOn (v : Word) (s : State) : s.GoesOn (s.commandWrite v) := by
  unfold State.commandWrite
  split
  · exact execStart_goesOn s
  · exact execStop_goesOn s
  · exact execLook_goesOn s
  · exact execResume_goesOn s
  · exact execCancelTicket_goesOn s
  · exact execCancelChain_goesOn s
  · exact execDotTest_goesOn s
  · exact execReset_goesOn s
  · split
    · exact s.next_goesOn
    · exact s.refuse_goesOn _

theorem State.registerWrite_goesOn (offset : BitVec 4) (width : Nat) (v : Word) (s : State) :
    s.GoesOn (s.registerWrite offset width v) := by
  unfold State.registerWrite
  split
  · exact s.next_goesOn
  · split
    · exact execAreaWrite_goesOn v s
    · exact s.commandWrite_goesOn v
    · exact execEventsWrite_goesOn v s
    · exact s.next_goesOn

/-! ### The events -/

theorem execLookTimerExpiry_goesOn (s : State) : s.GoesOn (execLookTimerExpiry s) := by
  unfold execLookTimerExpiry
  split
  · exact s.next_goesOn
  · exact State.event_goesOn (.of_watched ((Chip.lookTrigger_watched _).trans rfl))

theorem execPromotion_goesOn (s : State) : s.GoesOn (execPromotion s) := State.event_goesOn (.of_watched rfl)

theorem execCopyStart_goesOn (s : State) : s.GoesOn (execCopyStart s) := State.event_goesOn (.of_watched rfl)

theorem execComposeLine_goesOn (s : State) : s.GoesOn (execComposeLine s) :=
  State.event_goesOn s.chip.composeLine_keeps

theorem execEnterStopped_goesOn (s : State) : s.GoesOn (execEnterStopped s) :=
  State.event_goesOn s.chip.enterStopped_keeps

theorem execLineTake_goesOn (s : State) : s.GoesOn (execLineTake s) := State.event_goesOn s.chip.takeLine_keeps

theorem execShiftComplete_goesOn (s : State) : s.GoesOn (execShiftComplete s) := by
  unfold execShiftComplete
  split
  · exact State.inside_goesOn (.of_watched rfl)
  · exact s.next_goesOn

theorem execBurnPhaseEnd_goesOn (s : State) : s.GoesOn (execBurnPhaseEnd s) := by
  unfold execBurnPhaseEnd
  split
  · exact s.next_goesOn
  · exact State.inside_goesOn (.of_watched rfl)

theorem execBurnEnd_goesOn (s : State) : s.GoesOn (execBurnEnd s) := by
  unfold execBurnEnd
  split
  · exact s.next_goesOn
  · exact State.event_goesOn ((Chip.endBurn_keeps _).after_watched (Chip.advanceTo_watched _ _))

theorem execHeadLinkGrant_goesOn (s : State) : s.GoesOn (execHeadLinkGrant s) :=
  State.inside_goesOn (.of_watched rfl)

theorem execPeriodTimerExpiry_goesOn (s : State) : s.GoesOn (execPeriodTimerExpiry s) := by
  unfold execPeriodTimerExpiry
  split
  · exact State.inside_goesOn ((Chip.periodExpired_keeps _).after_watched (Chip.advanceTo_watched _ _))
  · exact s.next_goesOn

theorem execForwardStep_goesOn (s : State) : s.GoesOn (execForwardStep s) :=
  State.event_goesOn s.chip.forwardStep_keeps

theorem execReverseStep_goesOn (s : State) : s.GoesOn (execReverseStep s) := State.inside_goesOn (.of_watched rfl)

theorem execConversionComplete_goesOn (code : Code) (s : State) : s.GoesOn (execConversionComplete code s) :=
  State.event_goesOn (s.chip.conversionDone_keeps code)

theorem execEncoderTransition_goesOn (a b : Bool) (s : State) : s.GoesOn (execEncoderTransition a b s) := by
  unfold execEncoderTransition
  split
  · exact State.chip_goesOn (.of_watched rfl)
  · exact State.chip_goesOn (s.chip.encoderMoved_keeps a b)

theorem execSwitchInputChange_goesOn (k : Switch) (level : Bool) (s : State) :
    s.GoesOn (execSwitchInputChange k level s) := State.chip_goesOn (s.chip.follow_keeps _ k level)

theorem execHeadClosedDebounced_goesOn (s : State) : s.GoesOn (execHeadClosedDebounced s) :=
  State.event_goesOn s.chip.headChanged_keeps

theorem execTakenDebounced_goesOn (s : State) : s.GoesOn (execTakenDebounced s) :=
  State.inside_goesOn s.chip.takenChanged_keeps

theorem execSupplySettled_goesOn (s : State) : s.GoesOn (execSupplySettled s) := by
  unfold execSupplySettled
  split
  · next h => exact State.inside_goesOn (s.chip.supplyOn_keeps _ _ h)
  · exact s.next_goesOn

theorem execTestDotStart_goesOn (s : State) : s.GoesOn (execTestDotStart s) := by
  unfold execTestDotStart
  split
  · next p hp => exact State.inside_goesOn (.of_watched (s.chip.testing_watched _ (by rw [hp]; rfl)))
  · exact s.next_goesOn

theorem execDotShiftComplete_goesOn (s : State) : s.GoesOn (execDotShiftComplete s) := by
  unfold execDotShiftComplete
  split
  · next p hp =>
    split
    · exact State.inside_goesOn (s.chip.dotShifted_keeps p _ (by rw [hp]; rfl))
    · exact s.next_goesOn
  · exact s.next_goesOn

theorem execTestPulseEnd_goesOn (s : State) : s.GoesOn (execTestPulseEnd s) := by
  unfold execTestPulseEnd
  split
  · next p hp =>
    split
    · exact State.event_goesOn (s.chip.pulseEnded_keeps p _ _ (by rw [hp]; rfl))
    · exact s.next_goesOn
  · exact s.next_goesOn

theorem execResetPinRelease_goesOn (s : State) : s.GoesOn (execResetPinRelease s) := by
  unfold execResetPinRelease
  split
  · exact ⟨_, rfl, (s.chip.resetTo_keeps 0 0 fun _ => areaLegal_zero).then_watched
      (Chip.startConverter_watched _), rfl, rfl, rfl⟩
  · exact s.next_goesOn

/-- Every command but the ends of bursts and a pin reset goes on and leaves job memory (R18). -/
theorem exec_goesOn (i : Instr) (s : State)
    (hi : ∀ ws, i ≠ .burstComplete ws ∧ i ≠ .busError ws ∧ i ≠ .pinReset ws) : s.GoesOn (exec i s) := by
  cases i with
  | burstComplete ws => exact absurd rfl (hi ws).1
  | busError ws => exact absurd rfl (hi ws).2.1
  | pinReset ws => exact absurd rfl (hi ws).2.2
  | areaWrite v => exact execAreaWrite_goesOn v s
  | start => exact execStart_goesOn s
  | stop => exact execStop_goesOn s
  | look => exact execLook_goesOn s
  | resume => exact execResume_goesOn s
  | cancelTicket => exact execCancelTicket_goesOn s
  | cancelChain => exact execCancelChain_goesOn s
  | dotTest => exact execDotTest_goesOn s
  | reset => exact execReset_goesOn s
  | unknownCommand v => exact s.commandWrite_goesOn v
  | eventsWrite v => exact execEventsWrite_goesOn v s
  | registerWriteIgnored o w v => exact s.registerWrite_goesOn o w v
  | lookTimerExpiry => exact execLookTimerExpiry_goesOn s
  | promotion => exact execPromotion_goesOn s
  | copyStart => exact execCopyStart_goesOn s
  | composeLine => exact execComposeLine_goesOn s
  | lineTake => exact execLineTake_goesOn s
  | shiftComplete => exact execShiftComplete_goesOn s
  | burnPhaseEnd => exact execBurnPhaseEnd_goesOn s
  | burnEnd => exact execBurnEnd_goesOn s
  | headLinkGrant => exact execHeadLinkGrant_goesOn s
  | periodTimerExpiry => exact execPeriodTimerExpiry_goesOn s
  | forwardStep => exact execForwardStep_goesOn s
  | reverseStep => exact execReverseStep_goesOn s
  | conversionComplete code => exact execConversionComplete_goesOn code s
  | encoderTransition a b => exact execEncoderTransition_goesOn a b s
  | switchInputChange k level => exact execSwitchInputChange_goesOn k level s
  | headClosedDebounced => exact execHeadClosedDebounced_goesOn s
  | takenDebounced => exact execTakenDebounced_goesOn s
  | supplySettled => exact execSupplySettled_goesOn s
  | testDotStart => exact execTestDotStart_goesOn s
  | dotShiftComplete => exact execDotShiftComplete_goesOn s
  | testPulseEnd => exact execTestPulseEnd_goesOn s
  | enterStopped => exact execEnterStopped_goesOn s
  | resetPinRelease => exact execResetPinRelease_goesOn s

/-! ### The ends of bursts and a pin reset -/

/-- An outcome that goes on, keeps the invariants and the canonical form of job memory, and leaves the queue of
commands. -/
def State.KeepsForm (s : State) (o : Host.Outcome State Fault Refusal) : Prop :=
  ∃ t, o = .next t ∧ s.chip.Keeps t.chip ∧ t.pending = s.pending ∧ (s.memoryWf = true → t.memoryWf = true)

theorem State.next_keepsForm (s : State) : s.KeepsForm (.next s) := ⟨s, rfl, .refl _, rfl, id⟩

theorem State.afterBurst_keepsForm {s : State} {m : List Host.Cell} (draws : Nat) {f : Chip → Chip}
    (hf : s.chip.Keeps (f s.chip)) (hm : s.memoryWf = true → Memory.wf m = true) :
    s.KeepsForm (.next (s.afterBurst m draws f)) := by
  refine ⟨_, rfl, ?_, rfl, hm⟩
  unfold State.afterBurst
  simp only
  split
  · exact s.chip.softReset_keeps
  · exact hf.trans (Chip.settlePort_keeps _)

theorem execBurstComplete_keepsForm (ws : HostWrites) (s : State) : s.KeepsForm (execBurstComplete ws s) := by
  unfold execBurstComplete
  split
  · exact s.next_keepsForm
  · split
    · exact s.next_keepsForm
    · simp only
      split
      · exact State.afterBurst_keepsForm _ (s.chip.burstDone_keeps _ _)
          fun h => Memory.wf_writeRun (Memory.wf_hostWrite h ws) _ _
      · exact State.afterBurst_keepsForm _ (s.chip.burstDone_keeps _ _) fun h => Memory.wf_hostWrite h ws

theorem execBusError_keepsForm (ws : HostWrites) (s : State) : s.KeepsForm (execBusError ws s) := by
  unfold execBusError
  split
  · exact s.next_keepsForm
  · split
    · exact s.next_keepsForm
    · simp only
      split
      · exact State.afterBurst_keepsForm _ (s.chip.burstFailed_keeps _)
          fun h => Memory.wf_writeCut (Memory.wf_hostWrite h ws) _ _ _ _
      · exact State.afterBurst_keepsForm _ (s.chip.burstFailed_keeps _) fun h => Memory.wf_hostWrite h ws

theorem execPinReset_keepsForm (ws : HostWrites) (s : State) : s.KeepsForm (execPinReset ws s) := by
  refine ⟨_, rfl, s.chip.resetTo_keeps 0 0 fun _ => areaLegal_zero, rfl, fun h => ?_⟩
  have hw := Memory.wf_hostWrite h ws
  simp only [State.memoryWf]
  split
  · exact hw
  · split
    · exact Memory.wf_writeCut hw _ _ _ _
    · exact hw

/-- Every command goes on, keeps the invariants, and keeps job memory in its canonical form. -/
theorem exec_keepsForm (i : Instr) (s : State) : s.KeepsForm (exec i s) := by
  by_cases hi : ∀ ws, i ≠ .burstComplete ws ∧ i ≠ .busError ws ∧ i ≠ .pinReset ws
  · obtain ⟨t, ht, hk, hp, hm, _⟩ := exec_goesOn i s hi
    exact ⟨t, ht, hk, hp, fun h => by rw [State.memoryWf, hm]; exact h⟩
  · cases i with
    | burstComplete ws => exact execBurstComplete_keepsForm ws s
    | busError ws => exact execBusError_keepsForm ws s
    | pinReset ws => exact execPinReset_keepsForm ws s
    | _ => simp at hi

/-- A step keeps the invariants and the canonical form of job memory, whatever stands in the queue. -/
theorem step_keeps {s t : State} (h : step s = .next t) :
    s.chip.Keeps t.chip ∧ (s.memoryWf = true → t.memoryWf = true) := by
  unfold step at h
  split at h
  · cases h
    exact ⟨.of_watched rfl, id⟩
  · next c rest _ =>
    obtain ⟨u, hu, hk, _, hm⟩ := exec_keepsForm c { s with pending := rest }
    cases hu.symm.trans h
    exact ⟨hk, hm⟩

/-! ### The statements about every step -/

/-- Settles O3: every command's memory is a run of writes away from the canonical one before it. -/
theorem stepKeepsMemoryForm : Obligations.StepKeepsMemoryForm := fun _ _ hs h => (step_keeps h).2 hs

/-- Settles O4: only AREA_WRITE in STOPPED, the entry to LOADING and the resets write AREA or the address in use. -/
theorem stepKeepsAreaLegal : Obligations.StepKeepsAreaLegal := fun _ _ hs h => (step_keeps h).1.areas hs

/-- Settles O5: a line and an edge join where there is room, and every report saturates. -/
theorem stepKeepsRoom : Obligations.StepKeepsRoom := by
  intro s t h
  have hk := (step_keeps h).1
  refine ⟨fun hs => ?_, fun hs => ?_, hk.result⟩
  · exact decide_eq_true (hk.store (of_decide_eq_true hs))
  · exact decide_eq_true (hk.edges (of_decide_eq_true hs))

/-- Settles O6: wherever a condition of the supply changes, the supply is re-examined. -/
theorem stepKeepsSupplySound : Obligations.StepKeepsSupplySound := fun _ _ hs h => (step_keeps h).1.supply hs

/-- Settles O2: the frame of every command leaves job memory, but for the ends of bursts and a pin reset. -/
theorem everyCommandGoesOn : Obligations.EveryCommandGoesOn := by
  intro i s
  by_cases hi : ∀ ws, i ≠ .burstComplete ws ∧ i ≠ .busError ws ∧ i ≠ .pinReset ws
  · obtain ⟨t, ht, _, hp, hm, hd⟩ := exec_goesOn i s hi
    exact ⟨t, ht, hp, fun _ => ⟨hm, hd⟩⟩
  · obtain ⟨t, ht, _, hp, _⟩ := exec_keepsForm i s
    exact ⟨t, ht, hp, fun h => absurd h hi⟩

/-- Settles O1, by the two equations of `step`. -/
theorem stepRunsFrontCommand : Obligations.StepRunsFrontCommand := ⟨fun _ _ _ => rfl, fun _ => rfl⟩

/-- Settles O7, by evaluating each invariant at `State.reset`. -/
theorem resetMeetsInvariants : Obligations.ResetMeetsInvariants := by
  refine ⟨rfl, rfl, rfl, rfl, ?_, rfl⟩
  decide

end Sys2Proof.Machine
end

section
/-! The register window (R1, R16, R17, R176) and the reset pin's hold on the part (R181). -/

namespace Sys2Proof.Machine

open Sys2Proof

/-! ### The reset pin holds the part -/

section
variable {s : State} (h : s.resetPin = true)
include h

theorem State.command_held (taken : Bool) (name : RefusedCommand) (f : Chip → Chip) :
    s.command taken name f = .next s := by
  rw [State.command, if_pos h]

theorem State.event_held (holds : Bool) (f : Chip → Chip) : s.event holds f = .next s := by
  simp [State.event, h]

theorem State.inside_held (holds : Bool) (f : Chip → Chip) : s.inside holds f = .next s := by
  simp [State.inside, h]

theorem execAreaWrite_held (v : Word) : execAreaWrite v s = .next s := by
  rw [execAreaWrite, if_pos h]

theorem execEventsWrite_held (v : Word) : execEventsWrite v s = .next s := by
  rw [execEventsWrite, if_pos h]

theorem execReset_held : execReset s = .next s := by
  rw [execReset, if_pos h]

theorem State.commandWrite_held (v : Word) : s.commandWrite v = .next s := by
  unfold State.commandWrite
  split
  case h_8 => exact execReset_held h
  case h_9 => rw [if_pos h]
  all_goals exact State.command_held h _ _ _

theorem State.registerWrite_held (offset : BitVec 4) (width : Nat) (v : Word) :
    s.registerWrite offset width v = .next s := by
  unfold State.registerWrite
  split
  · rfl
  · split
    · exact execAreaWrite_held h v
    · exact State.commandWrite_held h v
    · exact execEventsWrite_held h v
    · rfl

theorem execLookTimerExpiry_held : execLookTimerExpiry s = .next s := by
  unfold execLookTimerExpiry
  split
  · rfl
  · exact State.event_held h _ _

theorem execShiftComplete_held : execShiftComplete s = .next s := by
  unfold execShiftComplete
  split
  · exact State.inside_held h _ _
  · rfl

theorem execBurnPhaseEnd_held : execBurnPhaseEnd s = .next s := by
  unfold execBurnPhaseEnd
  split
  · rfl
  · exact State.inside_held h _ _

theorem execBurnEnd_held : execBurnEnd s = .next s := by
  unfold execBurnEnd
  split
  · rfl
  · exact State.event_held h _ _

theorem execPeriodTimerExpiry_held : execPeriodTimerExpiry s = .next s := by
  unfold execPeriodTimerExpiry
  split
  · exact State.inside_held h _ _
  · rfl

theorem execSupplySettled_held : execSupplySettled s = .next s := by
  unfold execSupplySettled
  split
  · exact State.inside_held h _ _
  · rfl

theorem execTestDotStart_held : execTestDotStart s = .next s := by
  unfold execTestDotStart
  split
  · exact State.inside_held h _ _
  · rfl

theorem execDotShiftComplete_held : execDotShiftComplete s = .next s := by
  unfold execDotShiftComplete
  split
  · split
    · exact State.inside_held h _ _
    · rfl
  · rfl

theorem execTestPulseEnd_held : execTestPulseEnd s = .next s := by
  unfold execTestPulseEnd
  split
  · split
    · exact State.event_held h _ _
    · rfl
  · rfl

theorem execBurstComplete_held (ws : HostWrites) : execBurstComplete ws s = .next s := by
  rw [execBurstComplete, if_pos h]

theorem execBusError_held (ws : HostWrites) : execBusError ws s = .next s := by
  rw [execBusError, if_pos h]

end

/-- Settles O8: the frames of commands and events ask for the pin released, and what has no frame asks for it itself. -/
theorem resetPinHoldsPart : Obligations.ResetPinHoldsPart := by
  intro i s h hpin hrelease hencoder hswitch
  cases i with
  | pinReset ws => exact absurd rfl (hpin ws)
  | resetPinRelease => exact absurd rfl hrelease
  | encoderTransition a b => exact absurd rfl (hencoder a b)
  | switchInputChange k b => exact absurd rfl (hswitch k b)
  | areaWrite v => exact execAreaWrite_held h v
  | eventsWrite v => exact execEventsWrite_held h v
  | reset => exact execReset_held h
  | unknownCommand v => exact State.commandWrite_held h v
  | registerWriteIgnored o w v => exact State.registerWrite_held h o w v
  | burstComplete ws => exact execBurstComplete_held h ws
  | busError ws => exact execBusError_held h ws
  | lookTimerExpiry => exact execLookTimerExpiry_held h
  | shiftComplete => exact execShiftComplete_held h
  | burnPhaseEnd => exact execBurnPhaseEnd_held h
  | burnEnd => exact execBurnEnd_held h
  | periodTimerExpiry => exact execPeriodTimerExpiry_held h
  | supplySettled => exact execSupplySettled_held h
  | testDotStart => exact execTestDotStart_held h
  | dotShiftComplete => exact execDotShiftComplete_held h
  | testPulseEnd => exact execTestPulseEnd_held h
  | start =>
    show execStart s = _
    exact State.command_held h _ _ _
  | stop =>
    show execStop s = _
    exact State.command_held h _ _ _
  | look =>
    show execLook s = _
    exact State.command_held h _ _ _
  | resume =>
    show execResume s = _
    exact State.command_held h _ _ _
  | cancelTicket =>
    show execCancelTicket s = _
    exact State.command_held h _ _ _
  | cancelChain =>
    show execCancelChain s = _
    exact State.command_held h _ _ _
  | dotTest =>
    show execDotTest s = _
    exact State.command_held h _ _ _
  | promotion =>
    show execPromotion s = _
    exact State.event_held h _ _
  | copyStart =>
    show execCopyStart s = _
    exact State.event_held h _ _
  | composeLine =>
    show execComposeLine s = _
    exact State.event_held h _ _
  | lineTake =>
    show execLineTake s = _
    exact State.event_held h _ _
  | forwardStep =>
    show execForwardStep s = _
    exact State.event_held h _ _
  | conversionComplete code =>
    show execConversionComplete code s = _
    exact State.event_held h _ _
  | headClosedDebounced =>
    show execHeadClosedDebounced s = _
    exact State.event_held h _ _
  | enterStopped =>
    show execEnterStopped s = _
    exact State.event_held h _ _
  | headLinkGrant =>
    show execHeadLinkGrant s = _
    exact State.inside_held h _ _
  | reverseStep =>
    show execReverseStep s = _
    exact State.inside_held h _ _
  | takenDebounced =>
    show execTakenDebounced s = _
    exact State.inside_held h _ _

/-! ### Refused and ignored writes -/

/-- What a refusal leaves: REFUSED pending and the last refused command (R176). -/
def State.refusal (s : State) (r : RefusedCommand) : Host.Outcome State Fault Refusal :=
  .next { s with chip := { s.chip with
    engine := { s.chip.engine with pendingBits := s.chip.engine.pendingBits ||| 0x40#7, lastRefused := r } } }

theorem State.refuse_eq (s : State) (r : RefusedCommand) :
    .next { s with chip := s.chip.refuse r } = s.refusal r := rfl

theorem State.command_refusal {s : State} {taken : Bool} {name : RefusedCommand} {f : Chip → Chip}
    (hr : s.resetPin = false) (ht : taken = false) : s.command taken name f = s.refusal name := by
  rw [ht, State.command_refused hr, State.refuse_eq]

theorem execRegisterWriteIgnored_ignores (offset : BitVec 4) (width : Nat) (v : Word) (s : State)
    (h : WellFormed (.registerWriteIgnored offset width v) = true) :
    execRegisterWriteIgnored offset width v s = .next s := by
  simp only [WellFormed, ignoredAccess, Bool.or_eq_true, decide_eq_true_eq] at h
  unfold execRegisterWriteIgnored State.registerWrite
  by_cases hw : width = 32
  · obtain rfl : offset = 8 := h.resolve_left (fun hne => hne hw)
    rw [if_neg (fun hne => hne hw)]
    rfl
  · rw [if_pos hw]

theorem execUnknownCommand_refuses {s : State} (v : Word) (hr : s.resetPin = false) (hv : v.toNat = 0 ∨ 8 < v.toNat) :
    execUnknownCommand v s = s.refusal .unknown := by
  unfold execUnknownCommand State.commandWrite
  split
  case h_9 => rw [if_neg (by simp [hr]), State.refuse_eq]
  all_goals omega

/-- A trip condition that stands has RESUME refused (R167, R176). -/
theorem Chip.takesResume_false {c : Chip}
    (h : c.engine.state ≠ .halted ∨ c.engine.stopWaiting = true ∨ c.tripStands = true) : c.takesResume = false := by
  rcases h with h | h | h <;> simp [Chip.takesResume, h]

theorem Chip.takesDotTest_false {c : Chip}
    (h : c.engine.state = .loading ∨ c.engine.state = .stopping ∨ c.engine.state = .halted
      ∨ c.protection.test.isTesting = true
      ∨ (c.engine.state = .running ∧ (c.motion.state ≠ .still ∨ (c.job.jobState ≠ .dry ∧ c.job.jobState ≠ .ready)))) :
    c.takesDotTest = false := by
  rcases h with h | h | h | h | ⟨h, hm | ⟨hd, hr⟩⟩
  · simp [Chip.takesDotTest, h]
  · simp [Chip.takesDotTest, h]
  · simp [Chip.takesDotTest, h]
  · simp [Chip.takesDotTest, h]
  · simp [Chip.takesDotTest, h, hm]
  · simp [Chip.takesDotTest, h, hd, hr]

/-- Settles O10: each command's condition to be taken fails, and the frame of a command then refuses it. -/
theorem refusedWriteChangesNothingElse : Obligations.RefusedWriteChangesNothingElse := by
  refine ⟨execRegisterWriteIgnored_ignores, fun s v hr => ?_⟩
  intro refusal e
  refine ⟨fun h => ⟨?area, ?start⟩, fun h => ?stop, fun h => ?look, fun h => ?resume, fun l hl ht => ?resumeTrip,
    fun h => ?cancelTicket, fun h => ?cancelChain, fun h => ?dotTest, execUnknownCommand_refuses v hr⟩
  case area =>
    show execAreaWrite v s = s.refusal .areaWrite
    rw [execAreaWrite, if_neg (by simp [hr]), if_neg h, State.refuse_eq]
  case start =>
    show execStart s = s.refusal .start
    exact State.command_refusal hr (decide_eq_false h)
  case stop =>
    show execStop s = s.refusal .stop
    exact State.command_refusal hr (by rcases h with h | h <;> simp [e] at h <;> simp [h])
  case look =>
    show execLook s = s.refusal .look
    exact State.command_refusal hr (by rcases h with h | h | h <;> simp [e] at h <;> simp [h])
  case resume =>
    show execResume s = s.refusal .resume
    refine State.command_refusal hr (Chip.takesResume_false (h.imp_right (Or.imp_right fun ho => ?_)))
    simp [Chip.tripStands, ho]
  case resumeTrip =>
    show execResume s = s.refusal .resume
    refine State.command_refusal hr (Chip.takesResume_false (.inr (.inr ?_)))
    simp [Chip.tripStands, hl, ht]
  case cancelTicket =>
    show execCancelTicket s = s.refusal .cancelTicket
    exact State.command_refusal hr (by rcases h with h | h <;> simp [e] at h <;> simp [h])
  case cancelChain =>
    show execCancelChain s = s.refusal .cancelChain
    exact State.command_refusal hr (by rcases h with h | h | h <;> simp [e] at h <;> simp [h])
  case dotTest =>
    show execDotTest s = s.refusal .dotTest
    exact State.command_refusal hr (Chip.takesDotTest_false h)

/-! ### AREA and EVENTS -/

/-- The bits that AREA keeps are 2 to 23 (R1). -/
theorem areaMask_getLsbD (k : Nat) : areaMask.getLsbD k = (decide (2 ≤ k) && decide (k < 24)) := by
  by_cases hk : k < 32
  · have all : ∀ k : Fin 32, areaMask.getLsbD k = (decide (2 ≤ k.val) && decide (k.val < 24)) := by decide
    exact all ⟨k, hk⟩
  · rw [BitVec.getLsbD_of_ge _ _ (by omega), decide_eq_false (p := k < 24) (by omega), Bool.and_false]

/-- Settles O11: the value written is masked with bits 2 to 23. -/
theorem areaWriteKeepsWordAddress : Obligations.AreaWriteKeepsWordAddress := by
  intro v s hr hs
  refine ⟨{ s with chip := { s.chip with engine := s.chip.engine.writeArea v } }, ?_, fun k => ?_, rfl, rfl⟩
  · show execAreaWrite v s = _
    rw [execAreaWrite, if_neg (by simp [hr]), if_pos hs]
  · show (v &&& areaMask).getLsbD k = _
    rw [BitVec.getLsbD_and, areaMask_getLsbD, Bool.and_assoc]

/-- INT stands while some pending bit has its enable set (R17). -/
theorem EngineControl.int_iff (e : EngineControl) :
    e.int = true ↔ ∃ k, k < 7 ∧ e.pendingBits.getLsbD k = true ∧ e.enableBits.getLsbD k = true := by
  rw [EngineControl.int, decide_eq_true_iff]
  constructor
  · intro h
    by_contra hno
    refine h (BitVec.eq_of_getLsbD_eq fun k hk => ?_)
    rw [BitVec.getLsbD_and, show BitVec.getLsbD (0 : BitVec 7) k = false from BitVec.getLsbD_zero, Bool.and_eq_false_iff]
    by_contra hboth
    rw [not_or, Bool.not_eq_false, Bool.not_eq_false] at hboth
    exact hno ⟨k, hk, hboth⟩
  · rintro ⟨k, _, hp, he⟩ h0
    have := congrArg (·.getLsbD k) h0
    simp [BitVec.getLsbD_and, hp, he] at this

/-- Settles O12: the write's low half is taken away from the pending bits, and its high half gives the enables. -/
theorem eventsWriteClearsAndEnables : Obligations.EventsWriteClearsAndEnables := by
  intro v s hr
  refine ⟨{ s with chip := { s.chip with engine := s.chip.engine.writeEvents v } }, ?_, fun k hk => ⟨?_, ?_⟩,
    EngineControl.int_iff _, rfl⟩
  · show execEventsWrite v s = _
    rw [execEventsWrite, if_neg (by simp [hr])]
  · show (s.chip.engine.pendingBits &&& ~~~v.extractLsb' 0 7).getLsbD k = _
    simp [hk]
  · show (v.extractLsb' 16 7).getLsbD k = _
    simp [hk]

/-! ### STATUS -/

theorem EngineState.code_lt (e : EngineState) : e.code < 8 := by cases e <;> decide
theorem Cause.code_lt (k : Cause) : k.code < 32 := by cases k <;> decide
theorem JobState.code_lt (j : JobState) : j.code < 16 := by cases j <;> decide
theorem TestReport.code_lt (r : TestReport) : r.code < 4 := by cases r <;> decide
theorem RefusedCommand.code_lt (r : RefusedCommand) : r.code < 16 := by cases r <;> decide

/-- Nine fields of a word, each within its width, are read back from their places. -/
theorem statusFields {a b c d e f g h i : Nat} (ha : a < 8) (hb : b < 32) (hc : c < 256) (hd : d < 16) (he : e < 4)
    (hf : f < 2) (hg : g < 2) (hh : h < 2) (hi : i < 16) :
    let n := (BitVec.ofNat 32 (a + 2 ^ 3 * b + 2 ^ 8 * c + 2 ^ 16 * d + 2 ^ 20 * e + 2 ^ 22 * f + 2 ^ 23 * g
      + 2 ^ 24 * h + 2 ^ 25 * i)).toNat
    n % 8 = a ∧ n / 2 ^ 3 % 32 = b ∧ n / 2 ^ 8 % 256 = c ∧ n / 2 ^ 16 % 16 = d ∧ n / 2 ^ 20 % 4 = e
      ∧ n / 2 ^ 22 % 2 = f ∧ n / 2 ^ 23 % 2 = g ∧ n / 2 ^ 24 % 2 = h ∧ n / 2 ^ 25 = i := by
  rw [BitVec.toNat_ofNat]
  omega

theorem SupplyState.shownOn_eq (p : SupplyState) : p.shownOn = decide (p ≠ .off) := by
  cases p <;> simp [SupplyState.shownOn]

/-- Settles O13: the word is the sum of its fields, each below its width. -/
theorem statusShowsItsFields : Obligations.StatusShowsItsFields := by
  intro c w
  have hcause : (match c.engine.firstCause with | none => 0 | some k => k.code) < 32 := by
    split
    · decide
    · exact Cause.code_lt _
  have hhold : (if c.protection.thermal = .hold then 1 else 0) < 2 := by split <;> decide
  obtain ⟨h1, h2, h3, h4, h5, h6, h7, h8, h9⟩ := statusFields c.engine.state.code_lt hcause c.engine.further.isLt
    c.job.jobState.code_lt c.protection.report.code_lt hhold (Bool.toNat_lt c.scanner.headClosed.debounced)
    (Bool.toNat_lt c.protection.supply.shownOn) c.engine.lastRefused.code_lt
  have bit : ∀ k, w.getLsbD k = decide (w.toNat / 2 ^ k % 2 = 1) := fun k => by
    rw [BitVec.getLsbD, Nat.testBit_eq_decide_div_mod_eq]
  refine ⟨h1, h2, h3, h4, h5, ?_, ?_, ?_, h9⟩
  · rw [bit]
    refine decide_eq_decide.2 ?_
    rw [show w.toNat / 2 ^ 22 % 2 = _ from h6]
    split <;> simp [*]
  · rw [bit, show w.toNat / 2 ^ 23 % 2 = _ from h7]
    cases c.scanner.headClosed.debounced <;> rfl
  · rw [bit, show w.toNat / 2 ^ 24 % 2 = _ from h8, ← SupplyState.shownOn_eq]
    cases c.protection.supply.shownOn <;> rfl

end Sys2Proof.Machine
end

section
/-! Bursts and resets: what a cut burst leaves in job memory, which burst is carried next, and the machine after the
two resets (R18, R19, R181). -/

namespace Sys2Proof.Machine

open Sys2Proof

/-! ### Bursts that were cut short -/

/-- Each byte of a cut burst is the byte written, or the one that stood there (R18; log entry 10). -/
theorem Memory.read_writeCut_run {m : List Host.Cell} (h : Memory.wf m = true) (draw k a : Nat) (bs : List Byte)
    {i : Nat} (hi : i < bs.length) :
    Memory.read (Memory.writeCut m draw k a bs) (a + i) = bs.getD i 0
      ∨ Memory.read (Memory.writeCut m draw k a bs) (a + i) = Memory.read m (a + i) := by
  induction bs generalizing m k a i with
  | nil => exact absurd hi (Nat.not_lt_zero _)
  | cons b bs ih =>
    let m' := if Config.cutByteWritten draw k then Memory.writeIn m a b else m
    have hm' : Memory.wf m' = true := by
      simp only [m']
      split
      · exact Memory.wf_writeIn h a b
      · exact h
    have hcut : Memory.writeCut m draw k a (b :: bs) = Memory.writeCut m' draw (k + 1) (a + 1) bs := rfl
    rw [hcut]
    cases i with
    | zero =>
      rw [Memory.read_writeCut_other _ _ _ _ _ _ (.inl (by omega)), Nat.add_zero, List.getD_cons_zero]
      simp only [m']
      split
      · unfold Memory.writeIn
        split
        · exact .inl (Memory.read_write_same (by exact h) a b)
        · exact .inr rfl
      · exact .inr rfl
    | succ i =>
      have hother : Memory.read m' (a + (i + 1)) = Memory.read m (a + (i + 1)) := by
        simp only [m']
        split
        · exact Memory.read_writeIn_other _ _ (by omega)
        · rfl
      have hi' : i < bs.length := Nat.lt_of_succ_lt_succ hi
      rw [List.getD_cons_succ, ← hother, show a + (i + 1) = a + 1 + i by omega]
      exact ih hm' (k + 1) (a + 1) hi'

/-- Job memory, and the draws of free values, once a pin reset has ended the burst in flight (R18). -/
def State.cutMemory (s : State) (ws : HostWrites) : List Host.Cell × Nat :=
  match s.chip.port.inFlight with
  | none => (Memory.hostWrite s.memory ws, s.freeDraws)
  | some b =>
    if b.write then
      (Memory.writeCut (Memory.hostWrite s.memory ws) s.freeDraws 0 b.addr b.data, s.freeDraws + 1)
    else (Memory.hostWrite s.memory ws, s.freeDraws)

theorem execPinReset_eq (ws : HostWrites) (s : State) :
    execPinReset ws s = .next { s with
      chip := s.chip.resetTo 0 0, memory := (s.cutMemory ws).1, resetPin := true, resetWaiting := false
      freeDraws := (s.cutMemory ws).2 } := rfl

theorem State.cutMemory_of_no_write {s : State} {ws : HostWrites}
    (h : ∀ b, s.chip.port.inFlight = some b → b.write = false) :
    s.cutMemory ws = (Memory.hostWrite s.memory ws, s.freeDraws) := by
  unfold State.cutMemory
  split
  · rfl
  · next b hb => rw [if_neg (by simp [h b hb])]

theorem State.cutMemory_of_write {s : State} {ws : HostWrites} {b : Burst} (hb : s.chip.port.inFlight = some b)
    (hw : b.write = true) :
    s.cutMemory ws
      = (Memory.writeCut (Memory.hostWrite s.memory ws) s.freeDraws 0 b.addr b.data, s.freeDraws + 1) := by
  simp only [State.cutMemory, hb, hw, if_true]

theorem State.cutMemory_read_other {s : State} {ws : HostWrites} {b : Burst} (hb : s.chip.port.inFlight = some b)
    {a : Nat} (ha : a < b.addr ∨ b.addr + b.data.length ≤ a) :
    Memory.read (s.cutMemory ws).1 a = Memory.read (Memory.hostWrite s.memory ws) a := by
  cases hw : b.write with
  | true => rw [State.cutMemory_of_write hb hw]; exact Memory.read_writeCut_other _ _ _ _ _ _ ha
  | false =>
    rw [State.cutMemory_of_no_write fun b' hb' => ?_]
    cases hb.symm.trans hb'
    exact hw

/-! ### The machine after a reset -/

/-- A reset part with its converter started: the first THERM conversion runs (R149, R181). -/
theorem Chip.resetTo_startConverter (area : Word) (enables : BitVec 7) (c : Chip) :
    (c.resetTo area enables).startConverter
      = (let d := Chip.resetWith area enables c.now c.motion.phase c.scanner.phaseFirst c.scanner.phaseSecond
          c.scanner.headClosed.raw c.scanner.taken.raw
        { d with scanner := { d.scanner with converter := .converting .therm (c.now + 10) } }) := rfl

/-- Settles O9: the cut burst's bytes are free, the blocks are those of `Chip.resetTo`, and the release starts the
converter. -/
theorem pinResetBringsResetValues : Obligations.PinResetBringsResetValues := by
  refine ⟨fun ws s => ⟨(s.cutMemory ws).1, (s.cutMemory ws).2, execPinReset_eq ws s, fun h => ?_, ?_⟩,
    fun s h => ?_⟩
  · rw [State.cutMemory_of_no_write h]
    exact ⟨rfl, rfl⟩
  · intro b hb a ha
    refine ⟨State.cutMemory_read_other hb ha, fun b' hb' hw => ?_⟩
    rw [State.cutMemory_of_write hb' hw]
    exact ⟨rfl, fun hm k hk => Memory.read_writeCut_run (Memory.wf_hostWrite hm ws) _ _ _ _ hk⟩
  · show execResetPinRelease s = _
    rw [execResetPinRelease, if_pos h]
    rfl

section
variable {s : State} (hr : s.resetPin = false) {b : Burst} (hb : s.chip.port.inFlight = some b) (ws : HostWrites)
include hr hb

theorem execBurstComplete_write (hw : b.write = true) :
    execBurstComplete ws s = .next (s.afterBurst
      (Memory.writeRun (Memory.hostWrite s.memory ws) b.addr b.data) s.freeDraws (Chip.burstDone b [])) := by
  simp [execBurstComplete, hr, hb, hw]

theorem execBurstComplete_read (hw : b.write = false) :
    execBurstComplete ws s = .next (s.afterBurst (Memory.hostWrite s.memory ws) s.freeDraws
      (Chip.burstDone b (Memory.readRun (Memory.hostWrite s.memory ws) b.addr b.length))) := by
  simp [execBurstComplete, hr, hb, hw]

theorem execBusError_write (hw : b.write = true) :
    execBusError ws s = .next (s.afterBurst
      (Memory.writeCut (Memory.hostWrite s.memory ws) s.freeDraws 0 b.addr b.data) (s.freeDraws + 1)
      (Chip.burstFailed b)) := by
  simp [execBusError, hr, hb, hw]

theorem execBusError_read (hw : b.write = false) :
    execBusError ws s = .next (s.afterBurst (Memory.hostWrite s.memory ws) s.freeDraws (Chip.burstFailed b)) := by
  simp [execBusError, hr, hb, hw]

end

/-- The end of a burst that a soft reset waited for (R18, R181). -/
theorem State.afterBurst_reset {s : State} (h : s.resetWaiting = true) (m : List Host.Cell) (d : Nat)
    (f : Chip → Chip) :
    s.afterBurst m d f
      = { s with chip := s.chip.softReset, memory := m, freeDraws := d, resetWaiting := false } := by
  simp [State.afterBurst, h]

/-- The end of a burst that no reset waited for. -/
theorem State.afterBurst_goesOn {s : State} (h : s.resetWaiting = false) (m : List Host.Cell) (d : Nat)
    (f : Chip → Chip) :
    s.afterBurst m d f = { s with chip := (f s.chip).settlePort, memory := m, freeDraws := d } := by
  simp [State.afterBurst, h]

/-- Settles O21: at once or at the end of the burst awaited, the part becomes `Chip.softReset`. -/
theorem softResetKeepsAreaAndEnables : Obligations.SoftResetKeepsAreaAndEnables := by
  intro s ws hr fresh
  have hfresh : s.chip.softReset = fresh := Chip.resetTo_startConverter _ _ _
  refine ⟨fun h => ?_, fun b hb => ⟨?_, fun hwait => ⟨?_, ?_⟩⟩⟩
  · show execReset s = _
    simp only [execReset, hr, h, hfresh, Bool.false_eq_true, if_false]
  · show execReset s = _
    simp only [execReset, hr, hb, Bool.false_eq_true, if_false]
  · show execBurstComplete ws s = _
    cases hw : b.write with
    | true =>
      rw [execBurstComplete_write hr hb ws hw, State.afterBurst_reset hwait, hfresh]
      rfl
    | false =>
      rw [execBurstComplete_read hr hb ws hw, State.afterBurst_reset hwait, hfresh]
      rfl
  · cases hw : b.write with
    | true =>
      refine ⟨Memory.writeCut (Memory.hostWrite s.memory ws) s.freeDraws 0 b.addr b.data, ?_, fun a ha => ?_,
        fun _ hm k hk => ?_⟩
      · show execBusError ws s = _
        rw [execBusError_write hr hb ws hw, State.afterBurst_reset hwait, hfresh]
        rfl
      · exact Memory.read_writeCut_other _ _ _ _ _ _ (ha.resolve_left Bool.noConfusion)
      · exact Memory.read_writeCut_run (Memory.wf_hostWrite hm ws) _ _ _ _ hk
    | false =>
      refine ⟨Memory.hostWrite s.memory ws, ?_, fun a _ => rfl, fun hf => Bool.noConfusion hf⟩
      show execBusError ws s = _
      rw [execBusError_read hr hb ws hw, State.afterBurst_reset hwait, hfresh]
      rfl

/-- Settles O23, by the read after a run of writes. -/
theorem writeBurstIsByteExact : Obligations.WriteBurstIsByteExact := by
  intro s ws b hr hb hw hm hreach
  exact ⟨_, execBurstComplete_write hr hb ws hw,
    Memory.readRun_writeRun (Memory.wf_hostWrite hm ws) _ _ hreach,
    fun a ha => Memory.read_writeRun_other _ _ _ _ ha, rfl⟩

/-! ### Which burst is carried -/

/-- Settles O26: a burst takes what is left, up to the next 64-byte boundary. -/
theorem burstsStayWithin64ByteBlocks : Obligations.BurstsStayWithin64ByteBlocks := by
  intro q a ha b
  have hlength : b.length = min (a.length - a.carried) (64 - (a.addr + a.carried) % 64) := rfl
  have haddr : b.addr = a.addr + a.carried := rfl
  refine ⟨rfl, rfl, ?_, ?_, ?_, ?_, fun h => ?_⟩ <;> omega

theorem MemoryPort.waiting_queue {p : MemoryPort} {q : Requester} (h : p.waiting q = true) :
    ∃ a rest, p.queue q = a :: rest := by
  unfold MemoryPort.waiting at h
  split at h
  · next a rest hq => exact ⟨a, rest, hq⟩
  · exact absurd h Bool.false_ne_true

/-- The requester chosen is carried by the next burst of its first access (R19). -/
theorem MemoryPort.carry_chosen {p : MemoryPort} {level : Nat} {q : Requester} (hf : p.inFlight = none)
    (hw : p.waiting q = true) (hc : p.choose level = some q) :
    ∃ a rest, p.queue q = a :: rest
      ∧ p.carry level = { p with inFlight := some (burstOf q a), lastServed := q } := by
  obtain ⟨a, rest, hq⟩ := MemoryPort.waiting_queue hw
  exact ⟨a, rest, hq, by simp only [MemoryPort.carry, hf, hc, hq]⟩

theorem MemoryPort.choose_low {p : MemoryPort} {level : Nat} (hw : p.waiting .composer = true) (hl : level < 8) :
    p.choose level = some .composer := by
  rw [MemoryPort.choose, if_pos ⟨hw, hl⟩]

theorem MemoryPort.choose_rotation {p : MemoryPort} {level : Nat} (h : ¬ (p.waiting .composer = true ∧ level < 8)) :
    p.choose level = p.lastServed.rotationAfter.find? fun q => p.waiting q := by
  exact if_neg h

/-- The rotation names every requester (R19). -/
theorem Requester.mem_rotationAfter (q r : Requester) : q ∈ r.rotationAfter := by
  cases q <;> cases r <;> decide

theorem MemoryPort.choose_none {p : MemoryPort} {level : Nat} (h : ∀ q, p.waiting q = false) :
    p.choose level = none := by
  rw [MemoryPort.choose_rotation (by simp [h]), List.find?_eq_none]
  simp [h]

/-- A requester that alone waits is chosen (R19). -/
theorem MemoryPort.choose_only {p : MemoryPort} {level : Nat} {q : Requester} (hw : p.waiting q = true)
    (h : ∀ r, r ≠ q → p.waiting r = false) : p.choose level = some q := by
  by_cases hlow : p.waiting .composer = true ∧ level < 8
  · have hq : q = .composer := by
      by_contra hne
      exact Bool.false_ne_true ((h _ (Ne.symm hne)).symm.trans hlow.1)
    rw [MemoryPort.choose_low hlow.1 hlow.2, hq]
  · rw [MemoryPort.choose_rotation hlow]
    cases hfind : p.lastServed.rotationAfter.find? fun q => p.waiting q with
    | none => exact absurd hw (List.find?_eq_none.1 hfind q (q.mem_rotationAfter _))
    | some r =>
      have hr : p.waiting r = true := List.find?_some (p := fun q => p.waiting q) hfind
      by_contra hne
      exact Bool.false_ne_true ((h r fun h' => hne (congrArg some h')).symm.trans hr)

/-- The first of three that satisfies a test, where one of them does. -/
theorem find?_three {α : Type} (f : α → Bool) {a b c : α} (h : f a = true ∨ f b = true ∨ f c = true) :
    ∃ x, [a, b, c].find? f = some x ∧ f x = true
      ∧ x = if f a = true then a else if f b = true then b else c := by
  cases ha : f a with
  | true => exact ⟨a, by simp [ha], ha, by simp⟩
  | false =>
    cases hb : f b with
    | true => exact ⟨b, by simp [ha, hb], hb, by simp⟩
    | false =>
      have hc : f c = true := by simpa [ha, hb] using h
      exact ⟨c, by simp [ha, hb, hc], hc, by simp⟩

/-- Settles O27: the choice is by level or by the rotation, and issuing has drained what could be issued. -/
theorem arbiterChoosesByLevelAndRotation : Obligations.ArbiterChoosesByLevelAndRotation := by
  refine ⟨fun _ _ _ _ _ _ _ _ => rfl, fun c => ⟨rfl, ?_⟩, fun p level => ⟨?_, fun hf h => ?_, fun hf q hw => ?_⟩⟩
  · have hdrained := c.issueAccesses_drains c.issueWork (Nat.le_refl _)
    simpa only [MemoryPort.unissued, Chip.settlePort, MemoryPort.carry_queue] using hdrained
  · exact fun b hb => p.carry_inFlight level b hb
  · simp only [MemoryPort.carry, hf, MemoryPort.choose_none h]
  · intro served
    refine ⟨fun h => MemoryPort.carry_chosen hf hw (MemoryPort.choose_only hw h), fun hq hl => ?_, fun hlow => ?_⟩
    · subst hq
      exact MemoryPort.carry_chosen hf hw (MemoryPort.choose_low hw hl)
    · intro next first
      have hrot : p.lastServed.rotationAfter = [first, next first, next (next first)] := by
        simp only [first, next]
        cases p.lastServed <;> rfl
      have hsome : p.waiting first = true ∨ p.waiting (next first) = true ∨ p.waiting (next (next first)) = true := by
        have hmem := q.mem_rotationAfter p.lastServed
        rw [hrot] at hmem
        simp only [List.mem_cons, List.not_mem_nil, or_false] at hmem
        rcases hmem with rfl | rfl | rfl
        · exact .inl hw
        · exact .inr (.inl hw)
        · exact .inr (.inr hw)
      obtain ⟨x, hfind, hx, hxe⟩ := find?_three (fun q => p.waiting q) hsome
      rw [← hxe]
      exact MemoryPort.carry_chosen hf hx ((MemoryPort.choose_rotation hlow).trans (hrot ▸ hfind))

end Sys2Proof.Machine
end

section
/-! The statements on the model's tables and arithmetic: glyph lookup, samples, serial values, the shift search, burn
times, burn groups, the target, the settings and validation. -/

namespace Sys2Proof.Machine

open Sys2Proof

/-! ### Glyph lookup and samples -/

theorem GlyphHeader.carries_iff (h : GlyphHeader) (c : Nat) :
    h.carries c = true ↔ h.first ≤ c ∧ c - h.first < h.count := by
  simp [GlyphHeader.carries]

theorem GlyphHeader.lookup_carried {h : GlyphHeader} {c : Nat} (hc : h.carries c = true) :
    h.lookup c = c - h.first := if_pos hc

theorem GlyphHeader.lookup_missing {h : GlyphHeader} {c : Nat} (hc : h.carries c = false) :
    h.lookup c = if h.default < h.count then h.default else 0 := if_neg (by simp [hc])

/-- Settles O33: a code is carried or it is not. -/
theorem glyphLookupStaysInSet : Obligations.GlyphLookupStaysInSet := by
  intro h c hcount
  have hiff := h.carries_iff c
  cases hc : h.carries c with
  | true =>
    obtain ⟨hfirst, hlast⟩ := hiff.1 hc
    rw [GlyphHeader.lookup_carried hc]
    exact ⟨hlast, fun _ _ => ⟨rfl, rfl⟩, fun hout => by omega, fun i _ hi _ hc255 _ => by omega⟩
  | false =>
    have hout : ¬ (h.first ≤ c ∧ c - h.first < h.count) := fun hin => by simp [hiff.2 hin] at hc
    rw [GlyphHeader.lookup_missing hc]
    refine ⟨?_, fun h1 h2 => absurd ⟨h1, by omega⟩ hout, fun _ => ⟨rfl, rfl⟩, fun _ _ _ _ _ h => by cases h⟩
    split <;> omega

/-- Settles O50: the two arms of `classify`, and whether the second sample lies on the candidate's side. -/
theorem samplesConfirmInPairs : Obligations.SamplesConfirmInPairs := by
  intro sc value position
  refine ⟨fun h => ?_, fun d at0 h => ⟨fun hside => ?_, fun hside => ?_⟩⟩
  · simp only [SensorScanner.classify, h] <;> rfl
  · simp only [SensorScanner.classify, h, hside, if_true]
  · simp only [SensorScanner.classify, h, if_neg hside] <;> rfl

/-! ### Serial values -/

/-- The value as an integer: the start moved by its steps, around 10^digits (R98, R101). -/
theorem SerialSpec.valueAfter_eq (s : SerialSpec) (k : Nat) :
    (s.valueAfter k : Int) = (s.start + k * s.step) % ((10 ^ s.digits : Nat) : Int) :=
  Int.toNat_of_nonneg (Int.emod_nonneg _ (by positivity))

/-- Settles O34: a value is a residue, so a step more in the sum is a step more in the value. -/
theorem serialValuesCountAround : Obligations.SerialValuesCountAround := by
  intro s copy hstart
  refine ⟨?_, ?_, fun hcopy => ?_, rfl⟩
  · have h : (s.valueOf copy : Int) < (10 ^ s.digits : Nat) := by
      rw [SerialSpec.valueOf, SerialSpec.valueAfter_eq]
      exact Int.emod_lt_of_pos _ (by positivity)
    exact_mod_cast h
  · have h : (s.valueOf 1 : Int) = s.start := by
      rw [SerialSpec.valueOf, SerialSpec.valueAfter_eq]
      simpa using Int.emod_eq_of_lt (Int.natCast_nonneg s.start) (by exact_mod_cast hstart)
    exact_mod_cast h
  · obtain ⟨k, rfl⟩ := Nat.exists_eq_add_of_le' hcopy
    simp only [SerialSpec.valueOf, Nat.add_sub_cancel, SerialSpec.valueAfter_eq]
    have hmod := (((s.start + ((k + 1 : Nat) : Int) * s.step).mod_modEq ((10 ^ s.digits : Nat) : Int)).sub
      ((s.start + (k : Int) * s.step).mod_modEq ((10 ^ s.digits : Nat) : Int))).sub_right s.step
    rw [hmod.eq, show s.start + ((k + 1 : Nat) : Int) * s.step - (s.start + (k : Int) * s.step) - s.step = 0 by
      push_cast; ring, Int.zero_emod]

/-! ### The shift search -/

/-- `a` comes before `b` in the order of candidates: 0, +1, -1, +2, -2 and so on (R85). -/
def shiftBefore (a b : Int) : Prop := a.natAbs < b.natAbs ∨ (a.natAbs = b.natAbs ∧ b ≤ a)

theorem mem_shiftsUpTo {n : Nat} {s : Int} : s ∈ shiftsUpTo n ↔ s ≠ 0 ∧ s.natAbs ≤ n := by
  induction n with
  | zero => simp [shiftsUpTo]
  | succ n ih =>
    simp only [shiftsUpTo, List.mem_append, ih, List.mem_cons, List.not_mem_nil, or_false]
    omega

theorem shiftsUpTo_ordered (n : Nat) : (shiftsUpTo n).Pairwise shiftBefore := by
  induction n with
  | zero => exact List.Pairwise.nil
  | succ n ih =>
    refine List.pairwise_append.2 ⟨ih, ?_, fun a ha b hb => ?_⟩
    · simp [shiftBefore]
      omega
    · have hle := (mem_shiftsUpTo.1 ha).2
      simp only [List.mem_cons, List.not_mem_nil, or_false] at hb
      exact .inl (by omega)

/-- What a choice with its score is among the candidates `seen`: one of them, of least score, and before the others
of that score (R88). -/
def BestOf (score : Int → Nat) (seen : Int → Prop) (choice : Int × Nat) : Prop :=
  choice.2 = score choice.1 ∧ seen choice.1 ∧ (∀ s, seen s → choice.2 ≤ score s)
    ∧ ∀ s, seen s → score s = choice.2 → shiftBefore choice.1 s

section
variable {g : CopyGeometry} {bad : Dots} {bars : List Span} {extent : Span}

/-- The search keeps its choice the best of what was seen, over the candidates that follow in order. -/
theorem searchFrom_best (ss : List Int) (seen : Int → Prop) (best : Int × Nat)
    (hbest : BestOf (shiftScore g bad bars) seen best) (hordered : ss.Pairwise shiftBefore)
    (hlater : ∀ a, seen a → ∀ s ∈ ss, shiftBefore a s) :
    BestOf (shiftScore g bad bars) (fun s => seen s ∨ (s ∈ ss ∧ shiftSkipped g extent s = false))
      (searchFrom g bad bars extent best ss) := by
  induction ss generalizing seen best with
  | nil => simpa [searchFrom] using hbest
  | cons s ss ih =>
    obtain ⟨hscore, hseen, hleast, htie⟩ := hbest
    obtain ⟨hs, hordered⟩ := List.pairwise_cons.1 hordered
    have hlater' : ∀ a, seen a → ∀ x ∈ ss, shiftBefore a x :=
      fun a ha x hx => hlater a ha x (List.mem_cons_of_mem _ hx)
    rw [searchFrom]
    by_cases hzero : best.2 = 0
    · rw [if_pos hzero]
      refine ⟨hscore, .inl hseen, fun _ _ => by omega, fun x hx hxs => ?_⟩
      exact hx.elim (fun hx => htie x hx hxs) fun hx => hlater _ hseen x hx.1
    · rw [if_neg hzero]
      cases hskip : shiftSkipped g extent s with
      | true =>
        rw [if_pos rfl]
        convert ih seen best ⟨hscore, hseen, hleast, htie⟩ hordered hlater' using 2
        simp only [List.mem_cons, or_and_right]
        grind
      | false =>
        rw [if_neg Bool.false_ne_true]
        dsimp only
        have hnext := ih (fun x => seen x ∨ x = s)
          (if shiftScore g bad bars s < best.2 then (s, shiftScore g bad bars s) else best) ?_ hordered
          fun a ha x hx => ha.elim (fun ha => hlater' a ha x hx) fun ha => ha ▸ hs x hx
        · convert hnext using 2
          simp only [List.mem_cons, or_and_right]
          grind
        · split
          · next hlt =>
            refine ⟨rfl, .inr rfl, fun x hx => ?_, fun x hx hxs => ?_⟩
            · exact hx.elim (fun hx => by have := hleast x hx; dsimp only; omega) fun hx => hx ▸ Nat.le_refl _
            · refine hx.elim (fun hx => ?_) fun hx => .inr ⟨hx ▸ rfl, hx ▸ Int.le_refl _⟩
              have := hleast x hx
              dsimp only at hxs
              omega
          · next hge =>
            refine ⟨hscore, .inl hseen, fun x hx => ?_, fun x hx hxs => ?_⟩
            · exact hx.elim (hleast x) fun hx => hx ▸ by omega
            · exact hx.elim (fun hx => htie x hx hxs) fun hx =>
                hx ▸ hlater _ hseen s (List.mem_cons_self ..)

end

/-- Settles O35: the search begins at shift 0 and goes over the candidates in their order. -/
theorem shiftSearchFindsLeastScore : Obligations.ShiftSearchFindsLeastScore := by
  intro g bad bars extent maxShift choice allowed
  have hseen : (fun s : Int => s = 0 ∨ (s ∈ shiftsUpTo maxShift ∧ shiftSkipped g extent s = false))
      = allowed := by
    funext s
    simp only [mem_shiftsUpTo, allowed, eq_iff_iff]
    tauto
  have hbest : BestOf (shiftScore g bad bars) allowed choice := by
    rw [← hseen]
    refine searchFrom_best _ (fun s => s = 0) _ ⟨rfl, rfl, ?_, ?_⟩ (shiftsUpTo_ordered _) ?_
    · rintro _ rfl
      exact Nat.le_refl _
    · rintro _ rfl _
      exact .inr ⟨rfl, Int.le_refl _⟩
    · rintro _ rfl s hs
      have := (mem_shiftsUpTo.1 hs).1
      exact .inl (by omega)
  exact hbest

/-! ### Burn times and burn groups -/

/-- The interpolated value lies between the two it stands between (R114), at `r` of 64 parts. -/
theorem interpolate_between (lo hi r : Nat) (hr : r < 64) :
    min lo hi ≤ ((lo : Int) + (((hi : Int) - lo) * (r : Int) + 32) / 64).toNat
      ∧ ((lo : Int) + (((hi : Int) - lo) * (r : Int) + 32) / 64).toNat ≤ max lo hi := by
  rcases Nat.le_total lo hi with h | h
  · have hlow : 0 ≤ ((hi : Int) - lo) * r := mul_nonneg (by omega) (by omega)
    have hhigh : ((hi : Int) - lo) * r ≤ ((hi : Int) - lo) * 64 := mul_le_mul_of_nonneg_left (by omega) (by omega)
    omega
  · have hlow : 0 ≤ ((lo : Int) - hi) * r := mul_nonneg (by omega) (by omega)
    have hhigh : ((lo : Int) - hi) * r ≤ ((lo : Int) - hi) * 64 := mul_le_mul_of_nonneg_left (by omega) (by omega)
    have hneg : ((hi : Int) - lo) * r = -(((lo : Int) - hi) * r) := by ring
    omega

theorem phaseTimes_sum_le {factors : List Nat} (t : Nat) (hmost : ∀ k, factors.getD k 0 ≤ 256)
    (hfall : ∀ k, factors.getD (k + 1) 0 ≤ factors.getD k 0) : (phaseTimes factors t).sum ≤ t := by
  have hparts : t * (factors.getD 0 0 - factors.getD 1 0) + t * (factors.getD 1 0 - factors.getD 2 0)
      + t * (factors.getD 2 0 - factors.getD 3 0) + t * factors.getD 3 0 ≤ t * 256 := by
    have h01 : factors.getD 1 0 ≤ factors.getD 0 0 := hfall 0
    have h12 : factors.getD 2 0 ≤ factors.getD 1 0 := hfall 1
    have h23 : factors.getD 3 0 ≤ factors.getD 2 0 := hfall 2
    have h0 := hmost 0
    rw [← Nat.mul_add, ← Nat.mul_add, ← Nat.mul_add]
    exact Nat.mul_le_mul_left _ (by omega)
  simp only [phaseTimes, List.sum_cons, List.sum_nil]
  omega

/-- Settles O42: interpolation stays between, the clamp holds T, and the phases share T's 256 parts. -/
theorem burnTimesKeepBounds : Obligations.BurnTimesKeepBounds := by
  refine ⟨fun table code => interpolate_between _ _ _ (Nat.mod_lt _ (by decide)),
    fun v darkness code period hperiod hmost hfall => ⟨?_, ?_, phaseTimes_sum_le _ hmost hfall⟩⟩
  · simp [BurnValues.burnTime, clamp]
  · simp only [BurnValues.burnTime, clamp]
    omega

/-- The dots below `n` of one segment: as many as the part of the segment below `n` has. -/
theorem countBelow_segment (dots : Dots) (k n : Nat) (hn : n ≤ 1280) :
    countBelow (dots &&& dotsOf fun d => d / 320 == k) n
      = ((List.range (min 320 (n - 320 * k))).filter fun i => hasDot dots (320 * k + i)).length := by
  induction n with
  | zero => simp [countBelow]
  | succ n ih =>
    have hbit : (dots &&& dotsOf fun d => d / 320 == k).getLsbD n = (dots.getLsbD n && n / 320 == k) := by
      simp [dotsOf, show n < 1280 by omega]
    rw [countBelow, ih (by omega), hbit]
    by_cases hk : n / 320 = k
    · have hnext : min 320 (n + 1 - 320 * k) = min 320 (n - 320 * k) + 1 := by omega
      have hplace : 320 * k + min 320 (n - 320 * k) = n := by omega
      rw [hnext, List.range_succ, List.filter_append, List.length_append, List.filter_singleton, hplace]
      cases h : dots.getLsbD n <;> simp [hasDot, h, hk]
    · have hsame : min 320 (n + 1 - 320 * k) = min 320 (n - 320 * k) := by omega
      simp [hsame, hk]

theorem countSegment_eq (dots : Dots) {k : Nat} (hk : k < 4) :
    countSegment dots k = ((List.range 320).filter fun i => hasDot dots (320 * k + i)).length := by
  have h := countBelow_segment dots k 1280 (Nat.le_refl _)
  rwa [show min 320 (1280 - 320 * k) = 320 by omega] at h

/-- The next group could not have been joined: its first segment would have gone over the budget (R117). -/
def BurnGroup.Closes (budget : Nat) (setDots : Nat → Nat) (g h : BurnGroup) : Prop :=
  ∀ first, h.segments.head? = some first → budget < g.count + setDots first

/-- What the groups of the first `n` segments are (R117). -/
structure GroupsOf (budget : Nat) (setDots : Nat → Nat) (n : Nat) (gs : List BurnGroup) : Prop where
  segments : gs.flatMap (·.segments) = List.range n
  length : gs.length ≤ n
  group : ∀ g ∈ gs, g.segments ≠ [] ∧ g.count = (g.segments.map setDots).sum ∧ g.count ≤ budget
  closed : gs.IsChain (BurnGroup.Closes budget setDots)

/-- Only the open group, the last, takes part in a join (R117). -/
theorem joinGroup_append (budget k n : Nat) (gs : List BurnGroup) (g : BurnGroup) :
    joinGroup budget k n (gs ++ [g]) = gs ++ joinGroup budget k n [g] := by
  induction gs with
  | nil => rfl
  | cons h gs ih =>
    cases gs with
    | nil => rfl
    | cons h' gs => exact congrArg (h :: ·) ih

theorem joinGroup_keeps_groups {budget : Nat} {setDots : Nat → Nat} {n : Nat} {gs : List BurnGroup}
    (h : GroupsOf budget setDots n gs) (hn : setDots n ≤ budget) :
    GroupsOf budget setDots (n + 1) (joinGroup budget n (setDots n) gs) := by
  obtain ⟨hsegments, hlength, hgroup, hclosed⟩ := h
  rcases List.eq_nil_or_concat gs with rfl | ⟨init, g, rfl⟩
  · have hzero : n = 0 := by simpa using congrArg List.length hsegments.symm
    subst hzero
    exact ⟨rfl, Nat.le_refl _, by simpa [joinGroup] using hn, List.isChain_singleton _⟩
  · rw [List.concat_eq_append] at *
    rw [joinGroup_append]
    obtain ⟨hne, hcount, hmost⟩ := hgroup g (by simp)
    have hinit : ∀ x ∈ init, x.segments ≠ [] ∧ x.count = (x.segments.map setDots).sum ∧ x.count ≤ budget :=
      fun x hx => hgroup x (by simp [hx])
    simp only [List.flatMap_append, List.flatMap_cons, List.flatMap_nil, List.append_nil] at hsegments
    simp only [List.length_append, List.length_cons, List.length_nil] at hlength
    unfold joinGroup
    split
    · next hjoin =>
      refine ⟨?_, ?_, ?_, ?_⟩
      · simp [List.range_succ, ← hsegments]
      · simp
        omega
      · intro x hx
        rcases List.mem_append.1 hx with hx | hx
        · exact hinit x hx
        · rw [List.mem_singleton.1 hx]
          exact ⟨by simp, by simp [hcount], hjoin⟩
      · rw [List.isChain_append] at hclosed ⊢
        obtain ⟨hchain, -, hlast⟩ := hclosed
        refine ⟨hchain, List.isChain_singleton _, fun x hx y hy first hfirst => ?_⟩
        have hy' : { segments := g.segments ++ [n], count := g.count + setDots n } = y := by simpa using hy
        subst hy'
        refine hlast x hx g rfl first ?_
        rwa [List.head?_append_of_ne_nil _ hne] at hfirst
    · next hover =>
      refine ⟨?_, ?_, ?_, ?_⟩
      · simp [List.range_succ, ← hsegments]
      · simp
        omega
      · intro x hx
        rcases List.mem_append.1 hx with hx | hx
        · exact hinit x hx
        · rcases List.mem_cons.1 hx with rfl | hx
          · exact ⟨hne, hcount, hmost⟩
          · rw [List.mem_singleton.1 hx]
            exact ⟨by simp, by simp, hn⟩
      · rw [show init ++ [g, { segments := [n], count := setDots n }]
          = (init ++ [g]) ++ [{ segments := [n], count := setDots n }] by simp, List.isChain_append]
        refine ⟨hclosed, List.isChain_singleton _, fun x hx y hy first hfirst => ?_⟩
        have hx' : g = x := by simpa using hx
        have hy' : { segments := [n], count := setDots n } = y := by simpa using hy
        subst hx' hy'
        have hn' : n = first := by simpa using hfirst
        subst hn'
        omega

theorem burnGroups_groups (budget : Nat) (dots : Dots) (hbudget : 320 ≤ budget) :
    GroupsOf budget (fun k => ((List.range 320).filter fun i => hasDot dots (320 * k + i)).length) 4
      (burnGroups budget dots) := by
  have hmost : ∀ k, ((List.range 320).filter fun i => hasDot dots (320 * k + i)).length ≤ budget := fun k =>
    Nat.le_trans (List.length_filter_le _ _) (by simpa using hbudget)
  have hstep : ∀ n ≤ 4, GroupsOf budget
      (fun k => ((List.range 320).filter fun i => hasDot dots (320 * k + i)).length) n
      ((List.range n).foldl (fun gs k => joinGroup budget k (countSegment dots k) gs) []) := by
    intro n hn
    induction n with
    | zero => exact ⟨rfl, Nat.le_refl _, by simp, List.isChain_nil⟩
    | succ n ih =>
      rw [List.range_succ (n := n), List.foldl_append, List.foldl_cons, List.foldl_nil,
        countSegment_eq dots (show n < 4 by omega)]
      exact joinGroup_keeps_groups (ih (by omega)) (hmost n)
  exact hstep 4 (Nat.le_refl _)

/-- Settles O43: `GroupsOf` of the four segments. -/
theorem burnGroupsKeepPowerBudget : Obligations.BurnGroupsKeepPowerBudget := by
  intro budget dots hbudget groups setDots
  obtain ⟨hsegments, hlength, hgroup, hclosed⟩ := burnGroups_groups budget dots hbudget
  refine ⟨hsegments, List.length_pos_iff.2 fun h => ?_, hlength, hgroup, fun k g h hg hh => ?_⟩
  · have h' : burnGroups budget dots = [] := h
    rw [h'] at hsegments
    cases hsegments
  · obtain ⟨hk, rfl⟩ := List.getElem?_eq_some_iff.1 hg
    obtain ⟨hk', rfl⟩ := List.getElem?_eq_some_iff.1 hh
    exact List.isChain_iff_getElem.1 hclosed k hk'

/-! ### The target -/

theorem isAfter_iff (a b : Position) : isAfter a b = true ↔ 0 < (a - b).toNat ∧ (a - b).toNat < 2 ^ 31 := by
  rw [isAfter, decide_eq_true_iff, BitVec.toInt_eq_toNat_cond]
  have := (a - b).isLt
  split <;> omega

theorem MotionController.dropPassed_spec (m : MotionController) (queue : List Position) :
    ∃ passed, queue = passed ++ m.dropPassed queue ∧ (∀ e ∈ passed, isAfter (m.printStart e) m.position = false)
      ∧ ∀ e, (m.dropPassed queue).head? = some e → isAfter (m.printStart e) m.position = true := by
  induction queue with
  | nil => exact ⟨[], rfl, by simp, by simp [MotionController.dropPassed]⟩
  | cons e queue ih =>
    cases hahead : isAfter (m.printStart e) m.position with
    | true => exact ⟨[], by simp [MotionController.dropPassed, hahead], by simp,
        by simp [MotionController.dropPassed, hahead]⟩
    | false =>
      obtain ⟨passed, hqueue, hpassed, hhead⟩ := ih
      have hdrop : m.dropPassed (e :: queue) = m.dropPassed queue := by simp [MotionController.dropPassed, hahead]
      rw [hdrop]
      exact ⟨e :: passed, by rw [List.cons_append, ← hqueue], by simpa [hahead] using hpassed, hhead⟩

/-- Settles O52, by the entries that `dropPassed` removes. -/
theorem targetIsFirstPrintStartAhead : Obligations.TargetIsFirstPrintStartAhead := by
  intro m
  obtain ⟨passed, hqueue, hpassed, hhead⟩ := m.dropPassed_spec m.edgeQueue
  exact ⟨fun _ => rfl, isAfter_iff, passed, hqueue, hpassed, rfl, hhead, rfl⟩

/-! ### Settings -/

theorem leNat_lt (l : List Byte) : leNat l < 256 ^ l.length := by
  induction l with
  | nil => decide
  | cons b l ih =>
    have := b.isLt
    rw [leNat, List.length_cons, Nat.pow_succ]
    omega

theorem field_one_le (block : List Byte) (off : Nat) : field block off 1 ≤ 255 := by
  have hlt := leNat_lt ((block.drop off).take 1)
  have hpow : 256 ^ ((block.drop off).take 1).length ≤ 256 ^ 1 := Nat.pow_le_pow_right (by decide) (by simp)
  exact Nat.le_of_lt_succ (Nat.lt_of_lt_of_le hlt hpow)

theorem clamp_bounds {lo hi : Nat} (h : lo ≤ hi) (v : Nat) : lo ≤ clamp lo hi v ∧ clamp lo hi v ≤ hi := by
  unfold clamp
  omega

theorem clampInt_bounds {lo hi : Int} (h : lo ≤ hi) (v : Int) : lo ≤ clampInt lo hi v ∧ clampInt lo hi v ≤ hi := by
  unfold clampInt
  omega

section
variable {lo : Nat} {vs : List Nat}

theorem length_clampFalling (bound : Nat) (vs : List Nat) : (clampFalling bound vs).length = vs.length := by
  induction vs generalizing bound with
  | nil => rfl
  | cons v vs ih => simp [clampFalling, ih]

theorem clampFalling_bounds {bound : Nat} (hbound : lo ≤ bound) (h : ∀ v ∈ vs, lo ≤ v) :
    ∀ x ∈ clampFalling bound vs, lo ≤ x ∧ x ≤ bound := by
  induction vs generalizing bound with
  | nil => simp [clampFalling]
  | cons v vs ih =>
    have hv : lo ≤ v := h v (by simp)
    intro x hx
    rcases List.mem_cons.1 hx with rfl | hx
    · omega
    · have := ih (bound := min bound v) (by omega) (fun y hy => h y (by simp [hy])) x hx
      omega

theorem clampFalling_falls (bound : Nat) (vs : List Nat) :
    (clampFalling bound vs).Pairwise fun a b => b ≤ a := by
  induction vs generalizing bound with
  | nil => exact List.Pairwise.nil
  | cons v vs ih =>
    exact List.pairwise_cons.2
      ⟨fun x hx => (clampFalling_bounds (Nat.zero_le _) (fun _ _ => Nat.zero_le _) x hx).2, ih _⟩

end

/-- A falling table keeps its length and its range (R5). -/
theorem nonIncreasing_spec {lo hi : Nat} {vs : List Nat} (h : ∀ v ∈ vs, lo ≤ v ∧ v ≤ hi) :
    (nonIncreasing vs).length = vs.length ∧ (nonIncreasing vs).Pairwise (fun a b => b ≤ a)
      ∧ ∀ x ∈ nonIncreasing vs, lo ≤ x ∧ x ≤ hi := by
  cases vs with
  | nil => exact ⟨rfl, List.Pairwise.nil, by simp [nonIncreasing]⟩
  | cons v vs =>
    obtain ⟨hv, hvhi⟩ := h v (by simp)
    have hrest := clampFalling_bounds (vs := vs) hv fun x hx => (h x (List.mem_cons_of_mem _ hx)).1
    refine ⟨by simp [nonIncreasing, length_clampFalling],
      List.pairwise_cons.2 ⟨fun x hx => (hrest x hx).2, clampFalling_falls _ _⟩, fun x hx => ?_⟩
    rcases List.mem_cons.1 hx with rfl | hx
    · exact ⟨hv, hvhi⟩
    · have := hrest x hx
      omega

theorem tableAt_bounds (block : List Byte) (off n : Nat) {lo hi : Nat} (h : lo ≤ hi) :
    ∀ v ∈ tableAt block off n lo hi, lo ≤ v ∧ v ≤ hi := by
  intro v hv
  obtain ⟨k, -, rfl⟩ := List.mem_map.1 hv
  exact clamp_bounds h _

/-- Settles O59: each value is a clamp, and the tables fall. -/
theorem snapshotValuesKeepRanges : Obligations.SnapshotValuesKeepRanges := by
  intro block v
  have clamped : ∀ lo hi : Nat, lo ≤ hi → ∀ x, lo ≤ clamp lo hi x ∧ clamp lo hi x ≤ hi :=
    fun _ _ h x => clamp_bounds h x
  obtain ⟨hspeedLength, hspeedFalls, hspeed⟩ := nonIncreasing_spec (tableAt_bounds block 0x54 8
    (show 250 ≤ 20000 by decide))
  obtain ⟨hhistoryLength, hhistoryFalls, hhistory⟩ := nonIncreasing_spec (tableAt_bounds block 0x8C 4
    (show 0 ≤ 256 by decide))
  obtain ⟨hadjustLow, hadjustHigh⟩ := clampInt_bounds (show (-64 : Int) ≤ 64 by decide)
    (signedField 8 (field block 7 1))
  refine ⟨(clamped 0 1023 (by decide) _).2, field_one_le _ _, (clamped 0 63 (by decide) _).2,
    (clamped 2 255 (by decide) _).1, (clamped 2 255 (by decide) _).2,
    (clamped 64 16383 (by decide) _).1, (clamped 64 16383 (by decide) _).2,
    (clamped 256 4096 (by decide) _).1, (clamped 256 4096 (by decide) _).2,
    (clamped 1 64 (by decide) _).1, (clamped 1 64 (by decide) _).2,
    (clamped 0 7 (by decide) _).2, (clamped 0 30 (by decide) _).2, (clamped 0 1023 (by decide) _).2,
    (clamped 16 1024 (by decide) _).1, (clamped 16 1024 (by decide) _).2,
    (clamped 1 255 (by decide) _).1, (clamped 1 255 (by decide) _).2,
    (clamped 0 1023 (by decide) _).2, field_one_le _ _,
    Nat.min_le_left _ _, Nat.le_max_left _ _,
    Nat.max_le.2 ⟨(clamped 0 1023 (by decide) _).2, (clamped 0 1023 (by decide) _).2⟩,
    Nat.le_max_left _ _,
    Nat.max_le.2 ⟨(clamped 0 1023 (by decide) _).2, (clamped 0 1023 (by decide) _).2⟩,
    hspeedLength.trans (by simp [tableAt]), hspeedFalls, hspeed,
    hhistoryLength.trans (by simp [tableAt]), hhistoryFalls, fun x hx => (hhistory x hx).2,
    by simp [v, settingsOf, tableAt], fun x hx => (tableAt_bounds block 0x6A 17 (by decide) x hx).2,
    (clamped 50 4000 (by decide) _).1, (clamped 50 4000 (by decide) _).2,
    (clamped 320 1280 (by decide) _).1, (clamped 320 1280 (by decide) _).2,
    (clamped 2 50 (by decide) _).1, (clamped 2 50 (by decide) _).2, hadjustLow, hadjustHigh,
    (clamped 0 1022 (by decide) _).2, (clamped 1 255 (by decide) _).1, (clamped 1 255 (by decide) _).2⟩

/-! ### Validation -/

theorem serialSpecOf_bounds (b : List Byte) (at0 : Nat) :
    1 ≤ (serialSpecOf b at0).digits ∧ (serialSpecOf b at0).digits ≤ 9
      ∧ (serialSpecOf b at0).start < 10 ^ (serialSpecOf b at0).digits
      ∧ -9999 ≤ (serialSpecOf b at0).step ∧ (serialSpecOf b at0).step ≤ 9999 :=
  ⟨(clamp_bounds (by decide) _).1, (clamp_bounds (by decide) _).2,
    Nat.mod_lt _ (Nat.pow_pos (by decide)), clampInt_bounds (by decide) _⟩

/-- What holds of an object record that passes, with `serials` SERIAL records before it (R13, R26). -/
theorem recordOf_ok {b : List Byte} {ticketLength at0 serials : Nat} {o : PrintObject} {length : Nat}
    (h : recordOf b ticketLength at0 serials = .ok (o, length)) :
    (o.isSerial = true → serials < 4) ∧ ∀ s, o.body = .serial s → s = serialSpecOf b at0 := by
  unfold recordOf at h
  extract_lets f kind len elements chars common at h
  clear_value kind
  split at h
  case h_2 => cases h
  iterate 8
    split at h
    · cases h
  next hserials =>
  split at h
  all_goals
    obtain ⟨rfl, -⟩ := Prod.mk.inj (Except.ok.inj h)
    simp_all [common, PrintObject.isSerial, imageBodyOf]

/-- The walk over the records: how many there are, how many of them are SERIAL, and what each one is. -/
theorem recordsOf_ok {b : List Byte} {ticketLength : Nat} : ∀ {count at0 serials : Nat} {os : List PrintObject},
    recordsOf b ticketLength count at0 serials = .ok os → serials ≤ 4 →
      os.length = count ∧ serials + (os.filter (·.isSerial)).length ≤ 4
        ∧ ∀ o ∈ os, ∀ s, o.body = .serial s → ∃ at1, s = serialSpecOf b at1
  | 0, _, _, os, h, hserials => by
    cases h
    simpa using hserials
  | count + 1, at0, serials, os, h, hserials => by
    rw [recordsOf] at h
    split at h
    · cases h
    · next o length hrecord =>
      obtain ⟨hroom, hspec⟩ := recordOf_ok hrecord
      split at h
      · cases h
      · next rest hrest =>
        cases h
        obtain ⟨hcount, hmost, hall⟩ := recordsOf_ok hrest (by split <;> [exact hroom ‹_›; exact hserials])
        refine ⟨by simp [hcount], ?_, fun x hx s hs => ?_⟩
        · rw [List.filter_cons]
          split at hmost
          · next hserial =>
            rw [if_pos hserial, List.length_cons]
            omega
          · next hserial =>
            rw [if_neg hserial]
            omega
        · rcases List.mem_cons.1 hx with rfl | hx
          · exact ⟨at0, hspec s hs⟩
          · exact hall x hx s hs

theorem overrideOf_le {most v d : Nat} (h : overrideOf most v = some d) : d ≤ most := by
  unfold overrideOf at h
  split at h
  · cases h
  · cases h
    exact Nat.min_le_left _ _

/-- Settles O60: each bound is a check that validation passed or a clamp. -/
theorem validTicketsKeepBounds : Obligations.ValidTicketsKeepBounds := by
  intro addr bytes t h
  unfold validate at h
  extract_lets f length count flags at h
  split at h
  · cases h
  · split at h
    · cases h
    · next hsize =>
      split at h
      · cases h
      · next hgeometry =>
        split at h
        · cases h
        · next hcopies =>
          split at h
          · cases h
          · next hcount =>
            split at h
            · cases h
            · next objects hobjects =>
              cases h
              obtain ⟨hlength, hserials, hspecs⟩ := recordsOf_ok hobjects (Nat.zero_le _)
              refine ⟨rfl, rfl, ?_, ?_, ?_, ?_, ?_, ?_, Nat.le_max_left _ _, ?_, ?_,
                fun _ => overrideOf_le, fun _ => overrideOf_le, fun o ho s hs => ?_⟩
              case refine_9 =>
                obtain ⟨at1, rfl⟩ := hspecs o ho s hs
                exact serialSpecOf_bounds _ _
              all_goals
                dsimp only
                omega

end Sys2Proof.Machine
end

section
/-! The events that change one or two blocks: shifts and phases, the head link, the period timer, reverse steps, the
encoder, the switch inputs, and the measurement of a dot. -/

namespace Sys2Proof.Machine

open Sys2Proof

/-! ### Shifts, phases and the head link -/

theorem execShiftComplete_shifting {s : State} {r : LineRecord} {at0 : Nat} (hr : s.resetPin = false)
    (h : s.chip.burn.register = some (r, .shifting at0)) :
    execShiftComplete s = .next { s with chip := s.chip.shiftDone r at0 } := by
  simp only [execShiftComplete, h]
  exact State.inside_occurs hr rfl

theorem BurnPlan.advance_cons {plan : BurnPlan} {q : BurnPhase} {left : List BurnPhase} (h : plan.left = q :: left) :
    plan.advance = { plan with now := q, phaseEnd := plan.phaseEnd + q.time, left := left } := by
  simp only [BurnPlan.advance, h]

theorem execBurnPhaseEnd_next {s : State} {plan : BurnPlan} {q : BurnPhase} {left : List BurnPhase}
    (hr : s.resetPin = false) (h : s.chip.burn.plan = some plan) (hl : plan.left = q :: left) :
    execBurnPhaseEnd s = .next { s with chip :=
      { s.chip.advanceTo plan.phaseEnd with burn := { s.chip.burn with plan := some plan.advance } } } := by
  simp only [execBurnPhaseEnd, h]
  exact State.inside_occurs hr (by simp [hl])

/-- Settles O37: a shift's end and a phase's end move on what they end. -/
theorem shiftAndPhaseEnds : Obligations.ShiftAndPhaseEnds := by
  refine ⟨fun s r at0 hr h => execShiftComplete_shifting hr h, fun s plan q left hr h hl => ?_⟩
  have hnext := execBurnPhaseEnd_next hr h hl
  rw [BurnPlan.advance_cons hl] at hnext
  exact hnext

/-- Lending, with no shift in flight: any record in the register becomes UNSHIFTED (R125). -/
theorem BurnController.lend_eq {b : BurnController} (h : ∀ r at0, b.register ≠ some (r, .shifting at0)) :
    b.lend = { b with
      link := .lent, linkRequested := false, previousRow := 0, rowBefore := 0, lastLineStart := none
      register := b.register.map fun r => (r.1, .unshifted) } := by
  obtain ⟨register, _⟩ := b
  match register, h with
  | none, _ => rfl
  | some (r, .unshifted), _ => rfl
  | some (r, .shifted), _ => rfl
  | some (r, .shifting at0), h => exact absurd rfl (h r at0)

theorem BurnController.isShifting_false {b : BurnController} (h : ∀ r at0, b.register ≠ some (r, .shifting at0)) :
    b.isShifting = false := by
  unfold BurnController.isShifting
  split
  · next r at0 hr => exact absurd hr (h r at0)
  · rfl

/-- Settles O40: a request granted lends the link, as nothing is shifting. -/
theorem headLinkGrantLends : Obligations.HeadLinkGrantLends := by
  intro s hr hrequested hheld hplan hregister
  have hlend : s.chip.burn.mayLend = true := by
    simp [BurnController.mayLend, hrequested, hheld, hplan, BurnController.isShifting_false hregister]
  show execHeadLinkGrant s = _
  rw [execHeadLinkGrant, State.inside_occurs hr hlend, BurnController.lend_eq hregister]

/-! ### The period timer and reverse steps -/

theorem Chip.checkDwell_not_forward {c : Chip} (h : c.motion.state ≠ .forward) : c.checkDwell = c :=
  if_neg fun hd => h hd.1

theorem Chip.checkDwell_burning {c : Chip} (h : c.burn.plan ≠ none) : c.checkDwell = c :=
  if_neg fun hd => h hd.2.2.2.1

/-- Motion settles to STILL where no forward step is wanted, and no backfeed waits (R130). -/
theorem MotionController.settle_finished {m : MotionController} (ht : m.timer = .expired) (hs : m.state = .forward)
    (ho : m.operation = .none) : m.settle = m.still := by
  have hwant : m.operation.wantsForward = false := by rw [ho]; rfl
  have hback : m.still.afterBackfeed = m.still := by
    unfold MotionController.afterBackfeed
    split
    · simp only [show m.still.operation = .none from ho]
    · rfl
  simp [MotionController.settle, ht, hs, hwant, hback]

theorem MotionController.settle_wanted {m : MotionController} (hs : m.state = .forward)
    (hw : m.operation.wantsForward = true) : m.settle = m := by
  unfold MotionController.settle
  split
  · simp [hs, hw]
  · rfl

theorem MotionController.settle_running {m : MotionController} (h : m.timer ≠ .expired) : m.settle = m := by
  unfold MotionController.settle
  split
  · next ht => exact absurd ht h
  · rfl

/-- With a step to come and a burn in progress Motion goes on, and no dwell is entered (R132). -/
theorem Chip.settleMotion_burning {c : Chip} (hs : c.motion.state = .forward)
    (hw : c.motion.operation.wantsForward = true) (hp : c.burn.plan ≠ none) : c.settleMotion = c := by
  rw [Chip.settleMotion, MotionController.settle_wanted hs hw]
  exact Chip.checkDwell_burning hp

theorem Chip.settleMotion_finished {c : Chip} (ht : c.motion.timer = .expired) (hs : c.motion.state = .forward)
    (ho : c.motion.operation = .none) : c.settleMotion = { c with motion := c.motion.still } := by
  rw [Chip.settleMotion, MotionController.settle_finished ht hs ho]
  exact Chip.checkDwell_not_forward (by simp [MotionController.still])

theorem execPeriodTimerExpiry_running {s : State} {period at0 : Nat} (hr : s.resetPin = false)
    (h : s.chip.motion.timer = .running period at0) :
    execPeriodTimerExpiry s = .next { s with chip := (s.chip.advanceTo at0).periodExpired } := by
  simp only [execPeriodTimerExpiry, h]
  exact State.inside_occurs hr rfl

/-- Settles O44, by whether a step of the operation remains. -/
theorem periodExpiryStopsOrStretches : Obligations.PeriodExpiryStopsOrStretches := by
  intro s period at0 hr ht hs
  have hexec := execPeriodTimerExpiry_running hr ht
  refine ⟨fun ho => ?_, fun hp hw => ?_⟩
  · show execPeriodTimerExpiry s = _
    rw [hexec]
    have hidle : s.chip.motion.operation.wantsForward = false := by rw [ho]; rfl
    simp only [Chip.periodExpired, Chip.advanceTo_motion, hidle, Bool.false_eq_true, and_false, if_false]
    rw [Chip.settleMotion_finished]
    exacts [rfl, rfl, hs, ho]
  · show execPeriodTimerExpiry s = _
    rw [hexec]
    have hplan : s.chip.burn.plan.isSome = true := Option.isSome_iff_ne_none.2 hp
    simp only [Chip.periodExpired, Chip.advanceTo_motion, Chip.advanceTo_burn, hplan, hw, and_self, if_true,
      Chip.report_eq]
    rw [Chip.settleMotion_burning]
    exacts [rfl, hs, hw, hp]

/-- Settles O47: the step back is allowed from STILL and once the timer has expired. -/
theorem reverseStepDrawsBack : Obligations.ReverseStepDrawsBack := by
  intro s hr hback hleft hgate hstate
  have hmay : s.chip.mayStepBack = true := by
    unfold Chip.mayStepBack MotionController.wantsReverse
    rcases hstate with hstill | ⟨hreverse, hexpired⟩
    · simp [hback, hleft, hgate, hstill]
    · simp [hback, hleft, hgate, hreverse, hexpired]
  show execReverseStep s = _
  rw [execReverseStep, State.inside_occurs hr hmay]
  rfl

/-! ### The encoder -/

/-- The next place in the forward cycle is the next one of its list of transitions (R158). -/
theorem phaseIndex_next_iff (f g a b : Bool) :
    phaseIndex a b = (phaseIndex f g + 1) % 4 ↔ (f, g, a, b) ∈
      [(false, false, false, true), (false, true, true, true), (true, true, true, false),
        (true, false, false, false)] := by
  revert f g a b
  decide

/-- Settles O53, by how many of the two phases change. -/
theorem encoderCountsTransitions : Obligations.EncoderCountsTransitions := by
  intro s a b hr f g forward
  have hexec : exec (.encoderTransition a b) s = .next { s with chip := s.chip.encoderMoved a b } := by
    show execEncoderTransition a b s = _
    rw [execEncoderTransition, hr]
    rfl
  refine ⟨fun hone => ?_, fun hf hg => ?_⟩
  · have hsome : ¬ (f = a ∧ g = b) := by tauto
    have hnotBoth : ¬ (f ≠ a ∧ g ≠ b) := by tauto
    rw [hexec]
    unfold Chip.encoderMoved
    rw [if_neg hsome, if_neg hnotBoth]
    simp only [phaseIndex_next_iff, decide_eq_true_eq, addRibbon, clampInt]
    rfl
  · rw [hexec]
    unfold Chip.encoderMoved
    rw [if_neg (fun h => hf h.1), if_pos ⟨hf, hg⟩, Chip.report_eq]
    rfl

/-! ### Switch inputs -/

/-- CHAIN_DRY is raised once (R23). -/
theorem Chip.raiseDry_eq (c : Chip) :
    c.raiseDry = { c with
      engine := { c.engine with
        pendingBits := if c.job.dryMark = false then c.engine.pendingBits ||| 0x02#7 else c.engine.pendingBits }
      job := { c.job with dryMark := true } } := by
  unfold Chip.raiseDry
  by_cases h : c.job.dryMark = true
  · rw [if_pos h, if_neg (by simp [h]), ← h]
  · rw [if_neg h, if_pos (by simpa using h)]
    rfl

/-- The job state becomes DRY: with a zero link read last and nothing else in hand CHAIN_DRY is raised, once (R23). -/
theorem Chip.becomeDry_eq (c : Chip) :
    c.becomeDry = (let dry := c.waits = true ∧ c.job.lastLookZero = true ∧ c.job.dryMark = false
      { c with
        engine := { c.engine with
          pendingBits := if dry then c.engine.pendingBits ||| 0x02#7 else c.engine.pendingBits }
        job := { c.job with jobState := .dry, dryMark := if dry then true else c.job.dryMark } }) := by
  have hwaits : ({ c with job := { c.job with jobState := .dry } } : Chip).waits = c.waits := rfl
  have hjoined : (c.waits = true ∧ c.job.lastLookZero = true ∧ c.job.dryMark = false)
      ↔ (c.waits = true ∧ c.job.lastLookZero = true) ∧ c.job.dryMark = false := and_assoc.symm
  simp only [Chip.becomeDry, hwaits, Bool.and_eq_true, hjoined]
  by_cases hzero : c.waits = true ∧ c.job.lastLookZero = true
  · rw [if_pos hzero, Chip.raiseDry_eq]
    cases c.job.dryMark <;> simp only [hzero, true_and] <;> rfl
  · rw [if_neg hzero]
    simp only [hzero, false_and, if_false]

theorem Chip.settleJobState_current {c : Chip} (h : c.job.current ≠ none) :
    c.settleJobState = { c with job := { c.job with jobState := .ready } } := by
  unfold Chip.settleJobState
  split
  · rfl
  · next hnone => exact absurd hnone h

theorem Chip.settleJobState_none {c : Chip} (h : c.job.current = none) : c.settleJobState = c.becomeDry := by
  simp only [Chip.settleJobState, h]

/-- Settles O54, by whether the change ends an AWAIT_TAKE. -/
theorem switchInputsAreDebounced : Obligations.SwitchInputsAreDebounced := by
  refine ⟨fun s level => ⟨rfl, rfl⟩, fun s hr hdue => ?_⟩
  intro left dry
  show execTakenDebounced s = _
  have hoccurs : s.chip.scanner.taken.due = true := decide_eq_true hdue
  rw [execTakenDebounced, State.inside_occurs hr hoccurs]
  unfold Chip.takenChanged
  by_cases hleft : left
  · obtain ⟨hraw, hawait⟩ := id hleft
    rw [if_pos ⟨hraw, hawait⟩, if_pos hleft]
    by_cases hcurrent : s.chip.job.current = none
    · have hdry : dry ↔ s.chip.waits = true ∧ s.chip.job.lastLookZero = true ∧ s.chip.job.dryMark = false :=
        ⟨fun h => h.2.2, fun h => ⟨hleft, hcurrent, h⟩⟩
      rw [Chip.settleJobState_none, Chip.becomeDry_eq, if_pos hcurrent]
      · simp only [hdry]
        rfl
      · exact hcurrent
    · have hdry : ¬ dry := fun h => hcurrent h.2.1
      rw [Chip.settleJobState_current, if_neg hdry, if_neg hdry, if_neg hcurrent]
      exacts [rfl, hcurrent]
  · have hdry : ¬ dry := fun h => hleft h.1
    rw [if_neg hleft, if_neg hdry, if_neg hdry]
    exact congrArg (fun c => Host.Outcome.next { s with chip := c }) (if_neg hleft)

/-! ### The measurement of a dot -/

/-- The shift of a single-dot line ends in an idle conversion: the CURRENT conversion starts in its place, and the
Test Pulse with it (R152, R171). -/
theorem Chip.dotShifted_idle {c : Chip} {d : Nat}
    (h : c.scanner.converter = .converting .therm d ∨ c.scanner.converter = .converting .supply d)
    (p : TestProgress) (t : Nat) :
    c.dotShifted p t = { c with
      now := max c.now t
      scanner := { c.scanner with converter := .converting .current (max c.now t + 10) }
      protection := { c.protection with
        test := .testing { p with step := .measuring (.on (max c.now t + p.pulse)) none } } } := by
  rcases h with h | h
  all_goals
    simp only [Chip.dotShifted, SensorScanner.request, SensorScanner.inFlight, Chip.testStep, Chip.advanceTo_scanner, h]
    rfl

/-- The set of a dot that was judged: itself joins, where its code lies beyond the limits (R171). -/
def TestProgress.setWith (p : TestProgress) (code : Code) : Dots :=
  if code.toNat < p.currentMin ∨ p.currentMax < code.toNat then p.newSet ||| dotsOf fun d => d == p.dot
  else p.newSet

theorem Chip.judgeDot_next {p : TestProgress} (h : p.dot < 1279) (code : Code) (c : Chip) :
    c.judgeDot p code = { c with protection := { c.protection with
      test := .testing { p with
        dot := p.dot + 1, newSet := p.setWith code, step := .shifting (c.now + 32) } } } := by
  rw [Chip.judgeDot, if_neg (by omega)]
  rfl

theorem TestProgress.hasDot_setWith {p : TestProgress} (h : p.dot < 1280) (code : Code) (k : Nat) :
    hasDot (p.setWith code) k = (hasDot p.newSet k ||
      (decide (k = p.dot) && (decide (code.toNat < p.currentMin) || decide (p.currentMax < code.toNat)))) := by
  unfold TestProgress.setWith hasDot
  split
  · next hbad =>
    have hlimits : (decide (code.toNat < p.currentMin) || decide (p.currentMax < code.toNat)) = true := by
      simpa using hbad
    rw [hlimits, Bool.and_true, BitVec.getLsbD_or]
    congr 1
    by_cases hk : k < 1280
    · simp [dotsOf, hk, beq_eq_decide]
    · rw [BitVec.getLsbD_of_ge _ _ (by omega), decide_eq_false (by omega)]
  · next hgood =>
    have hlimits : (decide (code.toNat < p.currentMin) || decide (p.currentMax < code.toNat)) = false := by
      simpa using hgood
    rw [hlimits, Bool.and_false, Bool.or_false]

/-- Settles O56: one step of the measurement after another. -/
theorem dotIsMeasured : Obligations.DotIsMeasured := by
  intro s p hr htest
  refine ⟨fun hstep hgate hlink => ?_, fun at0 d hstep hconv => ?_, fun at0 code hstep hdot hreach => ?_⟩
  · show execTestDotStart s = _
    simp only [execTestDotStart, htest]
    exact State.inside_occurs hr (by simp [hstep, hgate, hlink])
  · show execDotShiftComplete s = _
    simp only [execDotShiftComplete, htest, hstep]
    rw [State.inside_occurs hr rfl, Chip.dotShifted_idle hconv]
  · have hdone : s.chip.pulseEnded p at0 (some code) = _ := Chip.judgeDot_next hdot _ _
    have hinReach : (s.chip.pulseEnded p at0 (some code)).portInReach = true := by
      rw [hdone]
      exact hreach
    refine ⟨(s.chip.pulseEnded p at0 (some code)).settlePort.port, p.setWith code, ?_, fun k => ?_, fun k => ?_⟩
    · show execTestPulseEnd s = _
      simp only [execTestPulseEnd, htest, hstep]
      rw [State.event_occurs hr rfl rfl hinReach, hdone]
      rfl
    · rw [Chip.settlePort_port_asked _ hinReach k, hdone]
      rfl
    · exact TestProgress.hasDot_setWith (by omega) code k

end Sys2Proof.Machine
end

section
/-! The commands on the engine and on the chain: START, STOP, LOOK, and the look timer. -/

namespace Sys2Proof.Machine

open Sys2Proof

/-! ### What a command or an event leaves asked for -/

/-- A command that is taken: the port issues, and leaves asked for what the command asked for. -/
theorem State.command_asked {s : State} {taken : Bool} {name : RefusedCommand} {f : Chip → Chip}
    (hr : s.resetPin = false) (ht : taken = true) (h : (f s.chip).portInReach = true) :
    ∃ p, s.command taken name f = .next { s with chip := { f s.chip with port := p } }
      ∧ ∀ q, p.asked q = (f s.chip).port.asked q :=
  ⟨_, State.command_taken hr ht rfl h, Chip.settlePort_port_asked _ h⟩

/-- An event that occurs: the port issues, and leaves asked for what the event asked for. -/
theorem State.event_asked {s : State} {holds : Bool} {f : Chip → Chip} (hr : s.resetPin = false)
    (hh : holds = true) (h : (f s.chip).portInReach = true) :
    ∃ p, s.event holds f = .next { s with chip := { f s.chip with port := p } }
      ∧ ∀ q, p.asked q = (f s.chip).port.asked q :=
  ⟨_, State.event_occurs hr hh rfl h, Chip.settlePort_port_asked _ h⟩

theorem EngineControl.areaBase_inUse {e : EngineControl} (h : e.state ≠ .stopped) :
    e.areaBase = e.areaInUse.toNat := if_neg h

theorem EngineControl.areaBase_stopped {e : EngineControl} (h : e.state = .stopped) : e.areaBase = e.area.toNat :=
  if_pos h

/-- Accesses whose queues hold only what another part's queues hold stay within reach. -/
theorem Chip.portInReach_sublist {c d : Chip} (h : c.portInReach = true)
    (hq : ∀ q, ∀ a ∈ d.port.queue q, a ∈ c.port.queue q) (hb : d.engine.areaBase = c.engine.areaBase) :
    d.portInReach = true := by
  have hsame : ({ c with engine := d.engine } : Chip).portInReach = true :=
    Chip.portInReach_congr c { c with engine := d.engine } (fun _ => rfl) hb ▸ h
  rw [Chip.portInReach_iff] at hsame ⊢
  exact fun q a ha => hsame q a (hq q a ha)

/-! ### START -/

/-- The supply with no reason to be ON, behind a CLOSED gate: it is OFF (R162). -/
theorem Chip.examineSupply_unwanted {c : Chip} (hw : c.supplyWanted = false) (hg : c.protection.gate = .closed) :
    c.examineSupply = { c with protection := { c.protection with supply := .off, lowRun := 0 } } := by
  simp [Chip.examineSupply, hw, Chip.closeGate, hg]

theorem Chip.enterLoading_eq {c : Chip} (ht : c.protection.test = .idle) (hg : c.protection.gate = .closed) :
    c.enterLoading = ({ c with
      engine := { c.engine with state := .loading, areaInUse := c.engine.area, firstCause := none, further := 0 }
      job := { c.job with held := 0, heldWriteFailed := false, lastLookZero := false }
      protection := { c.protection with tripLatch := false, supply := .off, lowRun := 0 }
      motion := { c.motion with
        position := 0, edgeQueue := [], lastEdge := none, measuredPitch := 0, presentedLines := 0, gapRun := 0 }
      scanner := { c.scanner with mediaState := .unknown, candidate := none }
      port := c.port.dropRecords } : Chip).ask .engine (writeAccess .loadHeld (.area 0x004) [0, 0, 0, 0]) := by
  unfold Chip.enterLoading
  rw [Chip.examineSupply_unwanted]
  · rfl
  · simp [Chip.supplyWanted, ht, TestState.isTesting]
  · exact hg

theorem MemoryPort.dropRecords_asked_engine (p : MemoryPort) :
    p.dropRecords.asked .engine
      = ((p.queue .engine).filter fun a => a.issued || !a.purpose.isRecord).map Access.request := by
  have h : (fun a : Access => !a.recordWaits) = fun a => a.issued || !a.purpose.isRecord := by
    funext a
    simp only [Access.recordWaits, Bool.not_and, Bool.not_not, Bool.or_comm]
  simp only [MemoryPort.asked, MemoryPort.dropRecords, MemoryPort.queue, h]

/-- Settles O14: no test and a CLOSED gate leave the entry its plain form. -/
theorem startEntersLoading : Obligations.StartEntersLoading := by
  intro s hr hstopped htest hgate hreach harea
  have hload := Chip.enterLoading_eq htest hgate
  have hin : s.chip.enterLoading.portInReach = true := by
    rw [hload]
    refine Chip.portInReach_ask _ _ _ (Chip.portInReach_sublist hreach (fun q a ha => ?_) ?_)
      (EngineControl.reaches_area_write ?_ _ _ _ (by decide))
    · cases q with
      | engine => exact (List.mem_filter.1 ha).1
      | job => exact ha
      | composer => exact ha
    · exact (EngineControl.areaBase_stopped hstopped).symm
    · rw [EngineControl.areaInReach, EngineControl.areaBase_stopped hstopped] at harea
      exact harea
  obtain ⟨p, hexec, hasked⟩ := State.command_asked (name := .start) (f := fun c => c.abandonTest.enterLoading) hr
    (decide_eq_true hstopped) (by rw [Chip.abandonTest_idle _ htest]; exact hin)
  simp only [Chip.abandonTest_idle _ htest, hload] at hexec hasked
  refine ⟨p, hexec, ?_, ?_, ?_⟩
  · rw [hasked, Chip.ask_asked_other _ _ _ _ (by decide)]
    rfl
  · rw [hasked, Chip.ask_asked_other _ _ _ _ (by decide)]
    rfl
  · rw [hasked, Chip.ask_asked_same, MemoryPort.dropRecords_asked_engine, Access.request_write _ _ _ rfl]

/-! ### STOP -/

theorem JobActivity.promoting_false {a : JobActivity} (h : ∀ g, a ≠ .promotion g) : a.promoting = false := by
  unfold JobActivity.promoting
  split
  · next g => exact absurd rfl (h g)
  · rfl

theorem Chip.stopByJobState_dry {c : Chip} (h : c.job.jobState = .dry) : c.stopByJobState = c := by
  simp only [Chip.stopByJobState, h]

theorem Chip.stop_dry {c : Chip} (hs : c.engine.state = .running) (hj : c.job.jobState = .dry)
    (ht : c.protection.test = .idle) (hp : ∀ g, c.job.activity ≠ .promotion g) :
    c.stop = { c.withdraw .job Purpose.isFetch with
      engine := { c.engine with state := .stopping }
      job := { c.job with
        nextBuffer := .empty, activity := if c.job.activity = .fetch then .none else c.job.activity } } := by
  simp only [Chip.stop, Chip.abandonTest_idle c ht, hs, Chip.stopSuccessor, JobActivity.promoting_false hp,
    Bool.false_eq_true, if_false]
  rw [Chip.stopByJobState_dry]
  exacts [rfl, hj]

/-- Settles O15: in DRY there is nothing of a ticket to end. -/
theorem stopEntersStopping : Obligations.StopEntersStopping := by
  intro s hr hstate hdry htest hpromo hreach
  have hstop := Chip.stop_dry hstate hdry htest hpromo
  have hin : s.chip.stop.portInReach = true := by
    rw [hstop]
    refine Chip.portInReach_of_port _ _ (Chip.portInReach_withdraw _ .job Purpose.isFetch hreach) rfl ?_
    exact (EngineControl.areaBase_inUse (e := s.chip.engine) (by rw [hstate]; decide)).symm
  have htaken : decide (s.chip.engine.state = .loading ∨ s.chip.engine.state = .running
      ∨ s.chip.engine.state = .halted) = true := decide_eq_true (.inr (.inl hstate))
  obtain ⟨p, hexec, hasked⟩ := State.command_asked (name := .stop) hr htaken hin
  rw [hstop] at hexec
  simp only [hstop] at hasked
  refine ⟨p, hexec, ?_, ?_, ?_⟩
  · rw [hasked]
    exact Chip.withdraw_asked_same _ _ _
  · rw [hasked]
    exact Chip.withdraw_asked_other _ _ _ _ (by decide)
  · rw [hasked]
    exact Chip.withdraw_asked_other _ _ _ _ (by decide)

/-! ### Looks -/

/-- The first access of a look: in DRY the settings load's, else that of the link (R23). -/
def JobController.lookAccess (j : JobController) : Access :=
  if j.jobState = .dry then readAccess (.settingsFirst .look) (.area 0x040) 4 else readAccess .lookLink j.link 4

theorem Chip.startLook_eq (c : Chip) :
    c.startLook = ({ c with job := { c.job with activity := .look false } } : Chip).ask .job c.job.lookAccess := by
  unfold Chip.startLook JobController.lookAccess
  by_cases h : c.job.jobState = .dry
  · rw [if_pos h, if_pos h]
    rfl
  · rw [if_neg h, if_neg h]
    rfl

theorem JobController.lookAccess_request (j : JobController) : j.lookAccess.request = j.lookAccess := by
  unfold JobController.lookAccess
  split <;> rfl

theorem EngineControl.reaches_look {e : EngineControl} (ha : e.areaInReach = true) {j : JobController}
    (hl : e.locate j.link + 4 ≤ Config.memoryReach) : e.reaches j.lookAccess = true := by
  unfold JobController.lookAccess
  split
  · exact EngineControl.reaches_area ha _ _ _ (by decide)
  · exact EngineControl.reaches_at _ _ hl

theorem Chip.lookTrigger_waiting {c : Chip} (hl : ∀ again, c.job.activity ≠ .look again) (hw : c.waits = true) :
    c.lookTrigger = c.startLook := by
  unfold Chip.lookTrigger
  split
  · next again h => exact absurd h (hl again)
  · rw [if_pos hw]

theorem Chip.lookTrigger_looking {c : Chip} {again : Bool} (h : c.job.activity = .look again) :
    c.lookTrigger = { c with job := { c.job with activity := .look true } } := by
  simp only [Chip.lookTrigger, h]

theorem Chip.lookTrigger_busy {c : Chip} (hl : ∀ again, c.job.activity ≠ .look again) (hw : c.waits = false) :
    c.lookTrigger = c := by
  unfold Chip.lookTrigger
  split
  · next again h => exact absurd h (hl again)
  · rw [if_neg (by simp [hw])]

section
variable {c : Chip} (hin : c.portInReach = true) (ha : c.engine.areaInReach = true)
  (hl : c.engine.locate c.job.link + 4 ≤ Config.memoryReach)
include hin ha hl

theorem Chip.startLook_inReach : c.startLook.portInReach = true := by
  rw [Chip.startLook_eq]
  exact Chip.portInReach_ask _ _ _ hin (EngineControl.reaches_look ha hl)

end

theorem Chip.startLook_asked_job (c : Chip) :
    c.startLook.port.asked .job = c.port.asked .job ++ [c.job.lookAccess] := by
  rw [Chip.startLook_eq, Chip.ask_asked_same, JobController.lookAccess_request]

theorem Chip.startLook_asked_other (c : Chip) {q : Requester} (h : q ≠ .job) :
    c.startLook.port.asked q = c.port.asked q := by
  rw [Chip.startLook_eq, Chip.ask_asked_other _ _ _ _ h]

/-- Settles O16, by whether a look is in flight and whether the Job Controller waits. -/
theorem lookTriggerStartsLook : Obligations.LookTriggerStartsLook := by
  intro s hr hstate hreach harea hlink look
  have htaken : decide (s.chip.engine.state = .running ∨ s.chip.engine.state = .stopping) = true :=
    decide_eq_true hstate
  refine ⟨fun hwaits hnone => ⟨?_, fun at0 ht => ?_⟩, fun again hlook => ?_, fun hlook hwaits => ?_⟩
  · have htrigger := Chip.lookTrigger_waiting (c := s.chip) (by simp [hnone]) hwaits
    obtain ⟨p, hexec, hasked⟩ := State.command_asked (name := .look) (f := Chip.lookTrigger) hr htaken
      (by rw [htrigger]; exact Chip.startLook_inReach hreach harea hlink)
    rw [htrigger] at hexec
    simp only [htrigger] at hasked
    refine ⟨p, ?_, ?_, ?_, ?_⟩
    · rw [Chip.startLook_eq] at hexec
      exact hexec
    · exact (hasked _).trans s.chip.startLook_asked_job
    · exact (hasked _).trans (s.chip.startLook_asked_other (by decide))
    · exact (hasked _).trans (s.chip.startLook_asked_other (by decide))
  · have htrigger : s.chip.lookTimerExpired at0 = Chip.startLook
        { s.chip with now := max s.chip.now at0, job := { s.chip.job with lookTimer := none } } :=
      Chip.lookTrigger_waiting (by simp [hnone]) hwaits
    obtain ⟨p, hexec, hasked⟩ := State.event_asked (f := Chip.lookTimerExpired at0) hr rfl
      (by rw [htrigger]; exact Chip.startLook_inReach hreach harea hlink)
    rw [htrigger] at hexec
    simp only [htrigger] at hasked
    refine ⟨p, ?_, ?_, ?_, ?_⟩
    · show execLookTimerExpiry s = _
      rw [Chip.startLook_eq] at hexec
      simp only [execLookTimerExpiry, ht]
      exact hexec
    · exact (hasked _).trans (Chip.startLook_asked_job _)
    · exact (hasked _).trans (Chip.startLook_asked_other _ (by decide))
    · exact (hasked _).trans (Chip.startLook_asked_other _ (by decide))
  · have htrigger := Chip.lookTrigger_looking hlook
    obtain ⟨p, hexec, hasked⟩ := State.command_asked (name := .look) (f := Chip.lookTrigger) hr htaken
      (by rw [htrigger]; exact hreach)
    rw [htrigger] at hexec
    simp only [htrigger] at hasked
    exact ⟨p, hexec, hasked⟩
  · have htrigger := Chip.lookTrigger_busy hlook hwaits
    obtain ⟨p, hexec, hasked⟩ := State.command_asked (name := .look) (f := Chip.lookTrigger) hr htaken
      (by rw [htrigger]; exact hreach)
    rw [htrigger] at hexec
    simp only [htrigger] at hasked
    exact ⟨p, hexec, hasked⟩

end Sys2Proof.Machine
end

section
/-! RESUME, the two cancels and the entry to STOPPED (R39, R40, R43, R45, R72, R180). -/

namespace Sys2Proof.Machine

open Sys2Proof

/-! ### RESUME -/

/-- The part as RESUME finds it again, before what was left undone goes on (R180, R167, R162, R72). -/
def Chip.resumed (c : Chip) : Chip :=
  { c with
    engine := { c.engine with state := .running, firstCause := none, further := 0 }
    protection := { c.protection with tripLatch := false, supply := .settling (c.now + 5000) }
    composer := .reset }

theorem Chip.headClosed_of_no_trip {c : Chip} (h : c.tripStands = false) : c.scanner.headClosed.debounced = true := by
  simp only [Chip.tripStands, Bool.or_eq_false_iff, Bool.not_eq_false'] at h
  exact h.1

/-- The supply wanted and OFF begins to settle (R162). -/
theorem Chip.examineSupply_settles {c : Chip} (hw : c.supplyWanted = true) (hs : c.protection.supply = .off) :
    c.examineSupply = { c with protection := { c.protection with supply := .settling (c.now + 5000) } } := by
  simp only [Chip.examineSupply, hw, if_true, hs]
  rfl

theorem Chip.resume_running {c : Chip} (hfrom : c.engine.haltedFrom ≠ some .loading)
    (hsuspended : c.composer.state = .suspended) (hoff : c.protection.supply = .off) (htrip : c.tripStands = false) :
    c.resume
      = (((c.resumed.againHeld.againEnd).dealFaulted.finishPresenting).composeInHand).lookTrigger := by
  have hclosed := Chip.headClosed_of_no_trip htrip
  unfold Chip.resume
  rw [if_neg hfrom, Chip.releaseComposer, if_pos hsuspended, Chip.examineSupply_settles]
  · rfl
  · simp [Chip.supplyWanted, hclosed]
  · exact hoff

theorem Chip.resumed_inReach {c : Chip} (hs : c.engine.state = .halted) (h : c.portInReach = true) :
    c.resumed.portInReach = true :=
  Chip.portInReach_of_port _ _ h rfl (EngineControl.areaBase_inUse (e := c.engine) (by rw [hs]; decide)).symm

theorem Chip.againHeld_written {c : Chip} (h : c.job.heldWriteFailed = false) : c.againHeld = c := by
  simp [Chip.againHeld, h]

theorem Chip.againEnd_none {c : Chip} (h : c.job.ending = none) : c.againEnd = c := by
  simp only [Chip.againEnd, h]

theorem Chip.againEnd_remade {c : Chip} {e : EndWriteBack} (h : c.job.ending = some e)
    (hf : e.failed = true ∨ e.remake = true) :
    c.againEnd = ({ c.withdraw .job Purpose.isEnd with
      job := { c.job with ending := some { e with failed := false, remake := false } } } : Chip).askEndWrites e := by
  simp only [Chip.againEnd, h, if_pos hf]
  rfl

/-- An end write-back made again: its writes follow what else is asked for (R36, R101). -/
theorem Chip.againEnd_asks {c : Chip} {e : EndWriteBack} (h : c.job.ending = some e)
    (hf : e.failed = true ∨ e.remake = true) (hin : c.portInReach = true)
    (ht : e.ticket.addr.toNat + 0x40 ≤ Config.memoryReach)
    (hn : ∀ n ∈ nextValues e.ticket e.result.copiesCompleted,
      e.ticket.addr.toNat + n.1 + 0x1C ≤ Config.memoryReach) :
    c.againEnd.portInReach = true
      ∧ c.againEnd = { c with
          job := { c.job with ending := some { e with failed := false, remake := false } }, port := c.againEnd.port }
      ∧ c.againEnd.port.asked .job = (c.port.asked .job).filter (fun a => !a.purpose.isEnd)
          ++ [writeAccess .endResult (.at (e.ticket.addr.toNat + 0x20)) (resultBytes e.result)]
          ++ (if e.ticket.kind = .print then
                (nextValues e.ticket e.result.copiesCompleted).map fun n =>
                  writeAccess .endNextValue (.at (e.ticket.addr.toNat + n.1 + 0x18)) (leBytes 4 n.2)
              else [])
          ++ [writeAccess .endState (.at (e.ticket.addr.toNat + 4)) (leBytes 1 e.state.code)]
      ∧ ∀ q, q ≠ .job → c.againEnd.port.asked q = c.port.asked q := by
  rw [Chip.againEnd_remade h hf]
  obtain ⟨hinEnd, hport, hjob, hcomposer, hengine⟩ := Chip.askEndWrites_asks e
    ({ c.withdraw .job Purpose.isEnd with
      job := { c.job with ending := some { e with failed := false, remake := false } } } : Chip)
    (Chip.portInReach_withdraw _ .job Purpose.isEnd hin) ht hn
  refine ⟨hinEnd, hport, ?_, fun q hq => ?_⟩
  · rw [hjob]
    simp only [Chip.withdraw_asked_same]
  · cases q with
    | job => exact absurd rfl hq
    | composer =>
      rw [hcomposer]
      exact Chip.withdraw_asked_other _ _ _ _ hq
    | engine =>
      rw [hengine]
      exact Chip.withdraw_asked_other _ _ _ _ hq

theorem Chip.dealFaulted_none {c : Chip} (h : c.job.current = none) : c.dealFaulted = c := by
  simp only [Chip.dealFaulted, h]

theorem Chip.dealFaulted_reprint {c : Chip} {t : Ticket} (h : c.job.current = some t) (hf : c.job.faulted = true)
    (hp : t.kind = .print) (hr : t.reprintOnFault = true) (hs : c.composer.state ≠ .suspended) :
    c.dealFaulted = { c with
      port := c.port.withdraw .composer fun _ => true
      composer := .reset
      burn := { c.burn with register := none }
      job := { c.job with jobState := .ready, faulted := false } } := by
  simp only [Chip.dealFaulted, h, hf, hp, hr, if_true, true_and, Chip.flush_eq c hs]

theorem Chip.finishPresenting_other {c : Chip} (h : c.job.jobState ≠ .present) : c.finishPresenting = c := if_neg h

theorem Chip.composeInHand_none {c : Chip} (h : c.job.current = none) : c.composeInHand = c := by
  simp only [Chip.composeInHand, h]

/-- A composition start that is given asks for the Resource Table (R32). -/
theorem Chip.startComposition_given {c : Chip} (hs : c.engine.state = .running) (hi : c.composer.state = .idle)
    (copy : Nat) :
    c.startComposition copy = ({ c with job := { c.job with compositionStart := some copy } } : Chip).ask .job
      (readAccess (.resourceTable copy) (.area 0x0B0) 256) := if_pos ⟨hs, hi⟩

theorem Chip.composeInHand_print {c : Chip} {t : Ticket} (h : c.job.current = some t) (hp : t.kind = .print) :
    c.composeInHand = c.startComposition c.job.copyInHand := by
  simp only [Chip.composeInHand, h, hp, if_true]

/-- The faulted ticket's copy in hand is given to the Composer again (R45, R72). -/
theorem Chip.reprint_composes {c : Chip} {t : Ticket} (h : c.job.current = some t) (hf : c.job.faulted = true)
    (hp : t.kind = .print) (hr : t.reprintOnFault = true) (hs : c.engine.state = .running)
    (hi : c.composer.state = .idle) :
    c.dealFaulted.composeInHand = ({ c with
      port := c.port.withdraw .composer fun _ => true
      composer := .reset
      burn := { c.burn with register := none }
      job := { c.job with jobState := .ready, faulted := false, compositionStart := some c.job.copyInHand } } : Chip).ask
        .job (readAccess (.resourceTable c.job.copyInHand) (.area 0x0B0) 256) := by
  rw [Chip.dealFaulted_reprint h hf hp hr (by rw [hi]; exact ComposerState.noConfusion)]
  refine (Chip.composeInHand_print ?_ hp).trans (Chip.startComposition_given ?_ ?_ _)
  exacts [h, hs, rfl]

theorem Chip.notLooking_of_none {c : Chip} (h : c.job.activity = .none) : ∀ again, c.job.activity ≠ .look again :=
  fun _ h' => JobActivity.noConfusion (h.symm.trans h')

/-- The Job Controller waits: nothing of a ticket is in hand (R22). -/
theorem Chip.waits_of {c : Chip} (hs : c.engine.state = .running) (hb : c.job.nextBuffer = .empty)
    (ha : c.job.activity = .none) (he : c.job.ending = none) : c.waits = true := by
  simp [Chip.waits, hs, hb, ha, he, JobActivity.leavesWaiting]

theorem Chip.waits_ending {c : Chip} (h : c.job.ending ≠ none) : c.waits = false := by
  simp [Chip.waits, h]

theorem Chip.takesResume_of {c : Chip} (hs : c.engine.state = .halted) (hw : c.engine.stopWaiting = false)
    (ht : c.tripStands = false) : c.takesResume = true := by
  simp [Chip.takesResume, hs, hw, ht]

theorem EngineControl.locate_congr {e f : EngineControl} (h : f.areaBase = e.areaBase) (l : Location) :
    f.locate l = e.locate l := by
  cases l with
  | area off => simp only [EngineControl.locate, h]
  | _ => rfl

theorem EngineControl.areaInReach_congr {e f : EngineControl} (h : f.areaBase = e.areaBase) :
    f.areaInReach = e.areaInReach := by
  simp only [EngineControl.areaInReach, h]

/-- Settles O17, by whether a ticket is being ended. -/
theorem resumeEntersRunning : Obligations.ResumeEntersRunning := by
  intro s hr hhalted hstop htrip hfrom hsuspended hoff hcurrent hheld hdry hbuffer hactivity hreach harea resumed
  have htaken := Chip.takesResume_of hhalted hstop htrip
  have hresume := Chip.resume_running hfrom hsuspended hoff htrip
  have hin := Chip.resumed_inReach hhalted hreach
  have hbase : s.chip.resumed.engine.areaBase = s.chip.engine.areaBase :=
    (EngineControl.areaBase_inUse (e := s.chip.engine) (by rw [hhalted]; decide)).symm
  rw [Chip.againHeld_written (c := s.chip.resumed) hheld] at hresume
  refine ⟨fun hending => ?_, fun e hending hagain haddr hnext => ?_⟩
  · have hgoes : s.chip.resume = s.chip.resumed.startLook := by
      rw [hresume, Chip.againEnd_none (c := s.chip.resumed) hending,
        Chip.dealFaulted_none (c := s.chip.resumed) hcurrent,
        Chip.finishPresenting_other (c := s.chip.resumed) (by simp [Chip.resumed, hdry]),
        Chip.composeInHand_none (c := s.chip.resumed) hcurrent]
      exact Chip.lookTrigger_waiting (by simp [Chip.resumed, hactivity])
        (Chip.waits_of rfl hbuffer hactivity hending)
    have hlook : s.chip.resumed.job.lookAccess = readAccess (.settingsFirst .look) (.area 0x040) 4 := if_pos hdry
    have hinLook : s.chip.resumed.startLook.portInReach = true := by
      rw [Chip.startLook_eq, hlook]
      exact Chip.portInReach_ask _ _ _ hin (EngineControl.reaches_area
        ((EngineControl.areaInReach_congr hbase).trans harea) _ _ _ (by decide))
    obtain ⟨p, hexec, hasked⟩ := State.command_asked (name := .resume) (f := Chip.resume) hr htaken
      (hgoes ▸ hinLook)
    rw [hgoes] at hexec
    simp only [hgoes] at hasked
    refine ⟨p, ?_, ?_, ?_, ?_⟩
    · rw [Chip.startLook_eq] at hexec
      exact hexec
    · rw [hasked, Chip.startLook_asked_job, hlook]
      rfl
    · exact (hasked _).trans (Chip.startLook_asked_other _ (by decide))
    · exact (hasked _).trans (Chip.startLook_asked_other _ (by decide))
  · obtain ⟨hinEnd, hport, hjob, hother⟩ := Chip.againEnd_asks (c := s.chip.resumed) hending hagain hin haddr hnext
    have hjobIs := congrArg Chip.job hport
    have hgoes : s.chip.resume = s.chip.resumed.againEnd := by
      rw [hresume, Chip.dealFaulted_none (by rw [hjobIs]; exact hcurrent),
        Chip.finishPresenting_other (by rw [hjobIs]; simp [Chip.resumed, hdry]),
        Chip.composeInHand_none (by rw [hjobIs]; exact hcurrent)]
      exact Chip.lookTrigger_busy (by rw [hjobIs]; simp [Chip.resumed, hactivity])
        (Chip.waits_ending (by rw [hjobIs]; simp))
    obtain ⟨p, hexec, hasked⟩ := State.command_asked (name := .resume) (f := Chip.resume) hr htaken
      (hgoes ▸ hinEnd)
    rw [hgoes, hport] at hexec
    simp only [hgoes] at hasked
    refine ⟨p, hexec, ?_, ?_, ?_⟩
    · exact (hasked _).trans hjob
    · exact (hasked _).trans (hother _ (by decide))
    · exact (hasked _).trans (hother _ (by decide))

/-- The withdrawal of everything leaves nothing asked for. -/
theorem MemoryPort.withdraw_all_asked (p : MemoryPort) (q : Requester) :
    (p.withdraw q fun _ => true).asked q = [] := by
  simp [MemoryPort.asked, MemoryPort.withdraw_queue]

theorem MemoryPort.withdraw_asked_other (p : MemoryPort) {q r : Requester} (gone : Purpose → Bool) (h : r ≠ q) :
    (p.withdraw q gone).asked r = p.asked r := by
  simp [MemoryPort.asked, MemoryPort.withdraw_queue, h]

/-- Settles O18: the faulted ticket is READY again, and its copy is composed before the look. -/
theorem resumeReprintsFaultedTicket : Obligations.ResumeReprintsFaultedTicket := by
  intro s t hr hhalted hstop htrip hfrom hsuspended hoff hcurrent hprint hreprint hfaulted hending hheld hbuffer
    hactivity hreach harea hlink
  have htaken := Chip.takesResume_of hhalted hstop htrip
  have hbase : s.chip.resumed.engine.areaBase = s.chip.engine.areaBase :=
    (EngineControl.areaBase_inUse (e := s.chip.engine) (by rw [hhalted]; decide)).symm
  have hareaIs : s.chip.resumed.engine.areaInReach = true := (EngineControl.areaInReach_congr hbase).trans harea
  have hcomposed := Chip.reprint_composes (c := s.chip.resumed) hcurrent hfaulted hprint hreprint rfl rfl
  have hinComposed : s.chip.resumed.dealFaulted.composeInHand.portInReach = true := by
    rw [hcomposed]
    exact Chip.portInReach_ask _ _ _
      (Chip.portInReach_withdraw _ .composer (fun _ => true) (Chip.resumed_inReach hhalted hreach))
      (EngineControl.reaches_area hareaIs _ _ _ (by decide))
  have hgoes : s.chip.resume = s.chip.resumed.dealFaulted.composeInHand.startLook := by
    rw [Chip.resume_running hfrom hsuspended hoff htrip, Chip.againHeld_written (c := s.chip.resumed) hheld,
      Chip.againEnd_none (c := s.chip.resumed) hending, Chip.finishPresenting_other]
    · rw [hcomposed]
      exact Chip.lookTrigger_waiting (Chip.notLooking_of_none hactivity)
        (Chip.waits_of rfl hbuffer hactivity hending)
    · rw [Chip.dealFaulted_reprint (c := s.chip.resumed) hcurrent hfaulted hprint hreprint]
      · exact JobState.noConfusion
      · exact ComposerState.noConfusion
  have hlook : s.chip.resumed.dealFaulted.composeInHand.job.lookAccess
      = readAccess .lookLink s.chip.job.link 4 := by
    rw [hcomposed]
    rfl
  have hinLook : s.chip.resumed.dealFaulted.composeInHand.startLook.portInReach = true := by
    rw [Chip.startLook_eq, hlook]
    refine Chip.portInReach_ask _ _ _ hinComposed (EngineControl.reaches_at _ _ ?_)
    rw [hcomposed]
    exact (EngineControl.locate_congr hbase _).symm ▸ hlink
  obtain ⟨p, hexec, hasked⟩ := State.command_asked (name := .resume) (f := Chip.resume) hr htaken (hgoes ▸ hinLook)
  rw [hgoes, Chip.startLook_eq, hcomposed] at hexec
  simp only [hgoes] at hasked
  have hother : ∀ q, q ≠ .composer → (s.chip.port.withdraw .composer fun _ => true).asked q = s.chip.asked q :=
    fun _ hq => MemoryPort.withdraw_asked_other _ _ hq
  refine ⟨p, hexec, ?_, ?_, ?_⟩
  · rw [hasked, Chip.startLook_asked_job, hlook, hcomposed, Chip.ask_asked_same, List.append_assoc]
    exact congrArg (· ++ _) (hother .job (by decide))
  · rw [hasked, Chip.startLook_asked_other _ (by decide), hcomposed, Chip.ask_asked_other _ _ _ _ (by decide)]
    exact MemoryPort.withdraw_all_asked _ _
  · rw [hasked, Chip.startLook_asked_other _ (by decide), hcomposed, Chip.ask_asked_other _ _ _ _ (by decide)]
    exact hother .engine (by decide)

/-! ### CANCEL TICKET -/

theorem MotionController.still_of_still {m : MotionController} (h : m.state = .still) :
    m.still = { m with timer := .stopped, speedStep := 0, rampCount := 0, stretchMark := false } := by
  simp [MotionController.still, ← h]

/-- The part once the operation, the composition and the burn of a cancelled ticket at rest are given up (R39). -/
def Chip.givenUp (c : Chip) : Chip :=
  { c with
    port := c.port.withdraw .composer fun _ => true
    composer := .reset
    burn := { c.burn with register := none, plan := none, previousRow := 0, rowBefore := 0, lastLineStart := none }
    motion := { c.motion with
      operation := .none, timer := .stopped, speedStep := 0, rampCount := 0, stretchMark := false, searchCount := 0 }
    job := { c.job with samplingReported := false } }

theorem Chip.stopMotion_idle {c : Chip} (hs : c.motion.state = .still) (ho : c.motion.operation = .none) :
    c.stopMotion = { c with
      motion := { c.motion with
        operation := .none, timer := .stopped, speedStep := 0, rampCount := 0, stretchMark := false, searchCount := 0 }
      job := { c.job with samplingReported := false } } := by
  unfold Chip.stopMotion
  rw [MotionController.still_of_still hs, ho]
  rfl

theorem Chip.dryUnlessPresenting_ready {c : Chip} (h : c.job.jobState = .ready) :
    c.dryUnlessPresenting = c.becomeDry := by
  simp only [Chip.dryUnlessPresenting, h]

/-- While the Job Controller does not wait, DRY is entered and nothing raised (R23). -/
theorem Chip.becomeDry_busy {c : Chip} (h : c.waits = false) :
    c.becomeDry = { c with job := { c.job with jobState := .dry } } := by
  simp [Chip.becomeDry_eq, h]

theorem Chip.cancelCurrent_ready {c : Chip} {t : Ticket} (h : c.job.current = some t) (hj : c.job.jobState = .ready)
    (hs : c.motion.state = .still) (ho : c.motion.operation = .none) (hc : c.composer.state ≠ .suspended) :
    c.cancelCurrent = (c.givenUp.decideEnd .cancelled .cancelled).dryUnlessPresenting := by
  have hpresent : decide (c.job.jobState = .present) = false := by
    rw [hj]
    rfl
  unfold Chip.cancelCurrent
  split
  · next hnone => exact absurd (h.symm.trans hnone) (Option.some_ne_none t)
  · dsimp only
    rw [hpresent, Bool.false_and, if_neg Bool.false_ne_true, if_pos hs, Chip.stopMotion_idle hs ho, Chip.flush_eq]
    exacts [rfl, hc]

theorem Chip.cancelCurrent_none {c : Chip} (h : c.job.current = none) : c.cancelCurrent = c := by
  simp only [Chip.cancelCurrent, h]

theorem Chip.stopHolds_running {c : Chip} (h : c.engine.state = .running) : c.stopHolds = false := by
  simp [Chip.stopHolds, h]

theorem Chip.cancelTicket_running {c : Chip} (h : c.engine.state = .running) : c.cancelTicket = c.cancelCurrent := by
  simp [Chip.cancelTicket, Chip.stopHolds_running h]

/-- The end write-back of a ticket whose end is decided. -/
def JobController.endOf (j : JobController) (t : Ticket) (state : TicketState) (outcome : Outcome) : EndWriteBack :=
  { ticket := t, state := state, result := { j.result with outcome := outcome }, failed := false, remake := false }

/-- A current ticket's end: it is being ended, and its writes follow what else is asked for (R36). -/
theorem Chip.decideEnd_asks {c : Chip} {t : Ticket} (h : c.job.current = some t) (state : TicketState)
    (outcome : Outcome) (hin : c.portInReach = true) (ht : t.addr.toNat + 0x40 ≤ Config.memoryReach)
    (hn : ∀ n ∈ nextValues t c.job.result.copiesCompleted, t.addr.toNat + n.1 + 0x1C ≤ Config.memoryReach) :
    let d := c.decideEnd state outcome
    d.portInReach = true
      ∧ d = { c with
          job := { c.job with
            current := none, ending := some (c.job.endOf t state outcome), copyInHand := 0, starting := false
            faulted := false, compositionStart := none, samplingReported := false }
          port := d.port }
      ∧ d.port.asked .job
        = (c.port.asked .job).filter (fun a => !(a.purpose.isResourceTable || a.purpose.isLoadFor .copyStart))
          ++ [writeAccess .endResult (.at (t.addr.toNat + 0x20))
                (resultBytes { c.job.result with outcome := outcome })]
          ++ (if t.kind = .print then
                (nextValues t c.job.result.copiesCompleted).map fun n =>
                  writeAccess .endNextValue (.at (t.addr.toNat + n.1 + 0x18)) (leBytes 4 n.2)
              else [])
          ++ [writeAccess .endState (.at (t.addr.toNat + 4)) (leBytes 1 state.code)]
      ∧ ∀ q, q ≠ .job → d.port.asked q = c.port.asked q := by
  have hdecide : c.decideEnd state outcome = ({ c.withdraw .job
      (fun p => p.isResourceTable || p.isLoadFor .copyStart) with
        job := { c.job with
          current := none, ending := some (c.job.endOf t state outcome), copyInHand := 0, starting := false
          faulted := false, compositionStart := none, samplingReported := false } } : Chip).askEndWrites
        (c.job.endOf t state outcome) := by
    simp only [Chip.decideEnd, h]
    rfl
  obtain ⟨hinEnd, hport, hjob, hcomposer, hengine⟩ := Chip.askEndWrites_asks (c.job.endOf t state outcome)
    ({ c.withdraw .job (fun p => p.isResourceTable || p.isLoadFor .copyStart) with
        job := { c.job with
          current := none, ending := some (c.job.endOf t state outcome), copyInHand := 0, starting := false
          faulted := false, compositionStart := none, samplingReported := false } } : Chip)
    (Chip.portInReach_withdraw _ .job _ hin) ht hn
  intro d
  simp only [d, hdecide]
  refine ⟨hinEnd, hport, ?_, fun q hq => ?_⟩
  · rw [hjob]
    simp only [Chip.withdraw_asked_same]
    rfl
  · cases q with
    | job => exact absurd rfl hq
    | composer =>
      rw [hcomposer]
      exact Chip.withdraw_asked_other _ _ _ _ hq
    | engine =>
      rw [hengine]
      exact Chip.withdraw_asked_other _ _ _ _ hq

/-- Settles O19: giving up the copy leaves the ticket's end to be decided. -/
theorem cancelTicketEndsReadyTicket : Obligations.CancelTicketEndsReadyTicket := by
  intro s hr hrunning hreach
  have htaken : decide (s.chip.engine.state = .running ∨ s.chip.engine.state = .stopping
      ∨ s.chip.engine.state = .halted) = true := decide_eq_true (.inl hrunning)
  refine ⟨fun t hcurrent hready hstill hop hcomposer haddr hnext => ?_, fun hnone => ?_⟩
  · obtain ⟨hinEnd, hport, hjob, hother⟩ := Chip.decideEnd_asks (c := s.chip.givenUp) hcurrent .cancelled .cancelled
      (Chip.portInReach_withdraw _ .composer (fun _ => true) hreach) haddr hnext
    have hjobIs := congrArg Chip.job hport
    have hcancel : s.chip.cancelTicket
        = { s.chip.givenUp.decideEnd .cancelled .cancelled with
            job := { (s.chip.givenUp.decideEnd .cancelled .cancelled).job with jobState := .dry } } := by
      rw [Chip.cancelTicket_running hrunning, Chip.cancelCurrent_ready hcurrent hready hstill hop hcomposer,
        Chip.dryUnlessPresenting_ready (by rw [hjobIs]; exact hready), Chip.becomeDry_busy]
      exact Chip.waits_ending (by rw [hjobIs]; exact Option.some_ne_none _)
    obtain ⟨p, hexec, hasked⟩ := State.command_asked (name := .cancelTicket) (f := Chip.cancelTicket) hr htaken
      (by rw [hcancel]; exact hinEnd)
    rw [hcancel, hport] at hexec
    simp only [hcancel] at hasked
    refine ⟨p, hexec, ?_, ?_, ?_⟩
    · rw [hasked, hjob, show s.chip.givenUp.port.asked .job = s.chip.asked .job from
        MemoryPort.withdraw_asked_other (q := .composer) (r := .job) _ _ (by decide)]
      rfl
    · exact (hasked _).trans ((hother .composer (by decide)).trans (MemoryPort.withdraw_all_asked _ _))
    · exact (hasked _).trans ((hother .engine (by decide)).trans (MemoryPort.withdraw_asked_other (q := .composer)
        (r := .engine) _ _ (by decide)))
  · have hcancel : s.chip.cancelTicket = s.chip := by
      rw [Chip.cancelTicket_running hrunning, Chip.cancelCurrent_none hnone]
    obtain ⟨p, hexec, hasked⟩ := State.command_asked (name := .cancelTicket) (f := Chip.cancelTicket) hr htaken
      (by rw [hcancel]; exact hreach)
    rw [hcancel] at hexec
    simp only [hcancel] at hasked
    exact ⟨p, hexec, hasked⟩

/-! ### CANCEL CHAIN -/

theorem Chip.cancelSuccessors_idle {c : Chip} (hp : ∀ g, c.job.activity ≠ .promotion g) :
    c.cancelSuccessors = { c.withdraw .job (fun p => p.isFetch || p.isLook) with
      job := { c.job.dropLook with nextBuffer := .empty, activity := .none } } := by
  rw [Chip.cancelSuccessors, JobActivity.promoting_false hp]
  rfl

/-- A walk that may begin reads the link waited on (R40). -/
theorem Chip.tryWalk_begins {c : Chip} (hw : c.job.walkWaiting = true) (ha : c.job.activity = .none)
    (he : c.job.ending = none) :
    c.tryWalk = ({ c with job := { c.job with walkWaiting := false, activity := .walk } } : Chip).ask .job
      (readAccess .walkLink c.job.link 4) := by
  simp [Chip.tryWalk, hw, ha, he]

/-- With the look in flight dropped, the last look read no zero link (R23). -/
theorem JobController.dropLook_withActivity (j : JobController) (b : NextBuffer) (a : JobActivity) :
    { j.dropLook with nextBuffer := b, activity := a }
      = { j with
          nextBuffer := b, activity := a
          lastLookZero := match j.activity with
            | .look _ => false
            | _ => j.lastLookZero } := by
  unfold JobController.dropLook
  cases j.activity <;> rfl

theorem Chip.cancelChain_begins {c : Chip} (hs : c.engine.state = .running) (hc : c.job.current = none)
    (he : c.job.ending = none) (hp : ∀ g, c.job.activity ≠ .promotion g) (hw : c.job.activity ≠ .walk) :
    c.cancelChain = ({ c.withdraw .job (fun p => p.isFetch || p.isLook) with
      job := { c.job with
        nextBuffer := .empty, activity := .walk, walkWaiting := false
        lastLookZero := match c.job.activity with
          | .look _ => false
          | _ => c.job.lastLookZero } } : Chip).ask .job (readAccess .walkLink c.job.link 4) := by
  unfold Chip.cancelChain
  rw [if_neg (by simp [Chip.stopHolds_running hs]), Chip.cancelCurrent_none hc]
  dsimp only
  rw [if_neg hw, Chip.cancelSuccessors_idle hp, JobController.dropLook_withActivity]
  exact Chip.tryWalk_begins rfl rfl he

/-- Settles O20: with nothing else in hand the walk begins at once. -/
theorem cancelChainBeginsWalk : Obligations.CancelChainBeginsWalk := by
  intro s hr hrunning hcurrent hending hpromo hwalk hreach hlink
  have htaken : decide (s.chip.engine.state = .running ∨ s.chip.engine.state = .halted) = true :=
    decide_eq_true (.inl hrunning)
  have hcancel := Chip.cancelChain_begins hrunning hcurrent hending hpromo hwalk
  have hin : s.chip.cancelChain.portInReach = true := by
    rw [hcancel]
    exact Chip.portInReach_ask _ _ _ (Chip.portInReach_withdraw _ .job (fun p => p.isFetch || p.isLook) hreach)
      (EngineControl.reaches_at _ _ hlink)
  obtain ⟨p, hexec, hasked⟩ := State.command_asked (name := .cancelChain) (f := Chip.cancelChain) hr htaken hin
  rw [hcancel] at hexec
  simp only [hcancel] at hasked
  refine ⟨p, hexec, ?_, ?_, ?_⟩
  · rw [hasked, Chip.ask_asked_same]
    exact congrArg (· ++ _) (Chip.withdraw_asked_same s.chip .job fun p => p.isFetch || p.isLook)
  · rw [hasked, Chip.ask_asked_other _ _ _ _ (by decide)]
    exact Chip.withdraw_asked_other s.chip .job .composer _ (by decide)
  · rw [hasked, Chip.ask_asked_other _ _ _ _ (by decide)]
    exact Chip.withdraw_asked_other s.chip .job .engine _ (by decide)

/-! ### The entry to STOPPED -/

theorem JobController.nothingInFlight_of {j : JobController} (he : j.ending = none)
    (hp : ∀ g, j.activity ≠ .promotion g) (hw : j.activity ≠ .walk) : j.nothingInFlight = true := by
  cases h : j.activity with
  | promotion g => exact absurd h (hp g)
  | walk => exact absurd h hw
  | none => simp [JobController.nothingInFlight, he, h]
  | look again => simp [JobController.nothingInFlight, he, h]
  | fetch => simp [JobController.nothingInFlight, he, h]

/-- The supply with no reason to be ON: it is OFF and the gate CLOSED (R162, R163, R166). -/
theorem Chip.examineSupply_off {c : Chip} (hw : c.supplyWanted = false) :
    c.examineSupply = { c with
      protection := { c.protection with supply := .off, gate := .closed, lowRun := 0 }
      burn := if c.protection.gate = .closed then c.burn else c.burn.abandon } := by
  simp [Chip.examineSupply, hw, Chip.closeGate_eq]

theorem Chip.enterStopped_idle {c : Chip} (ht : c.protection.test = .idle) :
    c.enterStopped = { (c.withdraw .job Purpose.endsAtHalt).withdraw .composer (fun _ => true) with
      engine := { c.engine with state := .stopped, stopWaiting := false }
      job := c.job.atStopped
      composer := .reset
      burn := { BurnController.reset with values := c.burn.values, darkness := c.burn.darkness }
      motion := { c.motion.still with operation := .none }
      protection := { c.protection with supply := .off, gate := .closed, lowRun := 0 } } := by
  unfold Chip.enterStopped
  rw [Chip.examineSupply_off]
  · simp only [Chip.withdraw_protection, Chip.withdraw_burn, ht, TestState.isTesting]
    congr 1
    split <;> rfl
  · simp [Chip.supplyWanted, ht, TestState.isTesting]

/-- Settles O22: with no test in hand the entry withdraws what waits and rests every block. -/
theorem stoppingEndsInStopped : Obligations.StoppingEndsInStopped := by
  intro s hr hstopping hcurrent hending hpromo hwalk hprint hfeeding hcalibrating hstill hop htest hreach
  have hmay : s.chip.mayEnterStopped = true := by
    simp [Chip.mayEnterStopped, hstopping, Chip.stoppingDone, hcurrent,
      JobController.nothingInFlight_of hending hpromo hwalk, hprint, hfeeding, hcalibrating, hstill, hop]
  have henter := Chip.enterStopped_idle htest
  have hin : s.chip.enterStopped.portInReach = true := by
    rw [henter]
    exact Chip.portInReach_withdraw _ .composer (fun _ => true)
      (Chip.portInReach_withdraw _ .job Purpose.endsAtHalt hreach)
  obtain ⟨p, hexec, hasked⟩ := State.event_asked (f := Chip.enterStopped) hr hmay hin
  rw [henter, MotionController.still_of_still hstill] at hexec
  simp only [henter] at hasked
  refine ⟨p, hexec, ?_, ?_, ?_⟩
  · rw [hasked]
    exact (Chip.withdraw_asked_other _ .composer .job _ (by decide)).trans (Chip.withdraw_asked_same _ _ _)
  · rw [hasked]
    exact MemoryPort.withdraw_all_asked _ _
  · rw [hasked]
    exact (Chip.withdraw_asked_other _ .composer .engine _ (by decide)).trans
      (Chip.withdraw_asked_other _ .job .engine _ (by decide))

end Sys2Proof.Machine
end

section
/-! What a first cause leaves of the part that it halts (R178), and what a trip adds to it (R165). -/

namespace Sys2Proof.Machine

open Sys2Proof

/-! ### Abandoning a dot test -/

@[simp] theorem Chip.examineSupply_port (c : Chip) : c.examineSupply.port = c.port := by rw [Chip.examineSupply_eq]
@[simp] theorem Chip.examineSupply_engine (c : Chip) : c.examineSupply.engine = c.engine := by
  rw [Chip.examineSupply_eq]
@[simp] theorem Chip.examineSupply_job (c : Chip) : c.examineSupply.job = c.job := by rw [Chip.examineSupply_eq]
@[simp] theorem Chip.examineSupply_composer (c : Chip) : c.examineSupply.composer = c.composer := by
  rw [Chip.examineSupply_eq]
@[simp] theorem Chip.examineSupply_motion (c : Chip) : c.examineSupply.motion = c.motion := by
  rw [Chip.examineSupply_eq]
@[simp] theorem Chip.examineSupply_scanner (c : Chip) : c.examineSupply.scanner = c.scanner := by
  rw [Chip.examineSupply_eq]

@[simp] theorem Chip.examineSupply_test (c : Chip) : c.examineSupply.protection.test = c.protection.test := by
  unfold Chip.examineSupply Chip.closeGate
  split
  · split <;> rfl
  · split <;> rfl

@[simp] theorem Chip.examineSupply_tripLatch (c : Chip) :
    c.examineSupply.protection.tripLatch = c.protection.tripLatch := by
  unfold Chip.examineSupply Chip.closeGate
  split
  · split <;> rfl
  · split <;> rfl

/-- No burn is in hand, and the register is empty. -/
def BurnController.quiet (b : BurnController) : Prop := b.plan = none ∧ b.register = none

theorem Chip.examineSupply_quiet {c : Chip} (h : c.burn.quiet) : c.examineSupply.burn.quiet := by
  rw [Chip.examineSupply_eq]
  dsimp only
  split
  · exact h
  · exact ⟨rfl, h.2⟩

/-- A dot test is in hand. -/
def Chip.testInHand (c : Chip) : Bool := decide (c.protection.test ≠ .idle)

/-- The write of an abandoned test's outcome (R173). -/
def abandonedWrite : Access := writeAccess .publishAbandoned (.area 0x00A) [2]

/-- The part with its test taken out of hand, before the supply is re-examined (R173). -/
def Chip.testDropped (c : Chip) : Chip :=
  ({ c with
    protection := { c.protection with test := .idle, report := .abandoned }
    scanner := { c.scanner with waiting := c.scanner.waiting.filter fun r => decide (r ≠ Request.current) }
    burn := c.burn.returnLink c.now } : Chip).withdraw .engine (Purpose.isLoadFor .dotTest)

theorem Chip.abandonTest_inHand {c : Chip} (h : c.testInHand = true) :
    c.abandonTest = c.testDropped.examineSupply.ask .engine abandonedWrite := by
  have hne : c.protection.test ≠ .idle := of_decide_eq_true h
  unfold Chip.abandonTest
  split
  · next hidle => exact absurd hidle hne
  · rfl

theorem Chip.abandonTest_notInHand {c : Chip} (h : c.testInHand = false) : c.abandonTest = c :=
  Chip.abandonTest_idle c (by simpa [Chip.testInHand] using h)

/-- What holds of the part as it stands, and of the part with its test dropped, holds once a test is abandoned. -/
theorem Chip.abandonTest_cases (P : Chip → Prop) {c : Chip} (hnone : c.testInHand = false → P c)
    (hsome : c.testInHand = true → P (c.testDropped.examineSupply.ask .engine abandonedWrite)) : P c.abandonTest := by
  cases h : c.testInHand with
  | false => rw [Chip.abandonTest_notInHand h]; exact hnone h
  | true => rw [Chip.abandonTest_inHand h]; exact hsome h

section
variable (c : Chip)

@[simp] theorem Chip.abandonTest_engine : c.abandonTest.engine = c.engine :=
  Chip.abandonTest_cases (fun d => d.engine = c.engine) (fun _ => rfl) fun _ => by
    rw [Chip.ask_engine, Chip.examineSupply_engine]; rfl

@[simp] theorem Chip.abandonTest_job : c.abandonTest.job = c.job :=
  Chip.abandonTest_cases (fun d => d.job = c.job) (fun _ => rfl) fun _ => by
    rw [Chip.ask_job, Chip.examineSupply_job]; rfl

@[simp] theorem Chip.abandonTest_composer : c.abandonTest.composer = c.composer :=
  Chip.abandonTest_cases (fun d => d.composer = c.composer) (fun _ => rfl) fun _ => by
    rw [Chip.ask_composer, Chip.examineSupply_composer]; rfl

@[simp] theorem Chip.abandonTest_motion : c.abandonTest.motion = c.motion :=
  Chip.abandonTest_cases (fun d => d.motion = c.motion) (fun _ => rfl) fun _ => by
    rw [Chip.ask_motion, Chip.examineSupply_motion]; rfl

@[simp] theorem Chip.abandonTest_headClosed : c.abandonTest.scanner.headClosed = c.scanner.headClosed :=
  Chip.abandonTest_cases (fun d => d.scanner.headClosed = c.scanner.headClosed) (fun _ => rfl) fun _ => by
    rw [Chip.ask_scanner, Chip.examineSupply_scanner]; rfl

@[simp] theorem Chip.abandonTest_supplyCode : c.abandonTest.scanner.supply = c.scanner.supply :=
  Chip.abandonTest_cases (fun d => d.scanner.supply = c.scanner.supply) (fun _ => rfl) fun _ => by
    rw [Chip.ask_scanner, Chip.examineSupply_scanner]; rfl

@[simp] theorem Chip.abandonTest_tripLatch : c.abandonTest.protection.tripLatch = c.protection.tripLatch :=
  Chip.abandonTest_cases (fun d => d.protection.tripLatch = c.protection.tripLatch) (fun _ => rfl) fun _ => by
    rw [Chip.ask_protection, Chip.examineSupply_tripLatch]; rfl

/-- No test is in hand once it is abandoned (R173). -/
@[simp] theorem Chip.abandonTest_test : c.abandonTest.protection.test = .idle :=
  Chip.abandonTest_cases (fun d => d.protection.test = .idle) (fun h => by simpa [Chip.testInHand] using h) fun _ => by
    rw [Chip.ask_protection, Chip.examineSupply_test]; rfl

theorem Chip.abandonTest_quiet {c : Chip} (h : c.burn.quiet) : c.abandonTest.burn.quiet :=
  Chip.abandonTest_cases (fun d => d.burn.quiet) (fun _ => h) fun _ => by
    rw [Chip.ask_burn]
    refine Chip.examineSupply_quiet (c := c.testDropped) ⟨h.1, ?_⟩
    show (match c.burn.register with
      | some (r, .unshifted) => some (r, .shifting (c.now + Config.shiftTime))
      | r => r) = none
    rw [h.2]

/-- Engine Control's accesses once a test is abandoned: the load of its start is withdrawn, and its outcome is to be
written (R173). -/
theorem Chip.abandonTest_engineQueue :
    c.abandonTest.port.queue .engine
      = (c.port.queue .engine).filter (fun a => !(c.testInHand && a.purpose.isLoadFor .dotTest))
        ++ if c.testInHand then [abandonedWrite] else [] := by
  refine Chip.abandonTest_cases (fun d => d.port.queue .engine = _) (fun h => ?_) fun h => ?_
  · simp [h]
  · rw [Chip.ask_port, Chip.examineSupply_port, MemoryPort.queue_setQueue, h]
    simp only [Chip.testDropped, Chip.withdraw_port, MemoryPort.withdraw_queue, if_true, Bool.true_and]

theorem Chip.abandonTest_queue_other {q : Requester} (h : q ≠ .engine) :
    c.abandonTest.port.queue q = c.port.queue q := by
  refine Chip.abandonTest_cases (fun d => d.port.queue q = c.port.queue q) (fun _ => rfl) fun _ => ?_
  rw [Chip.ask_port, Chip.examineSupply_port, MemoryPort.queue_setQueue_ne _ _ _ _ h]
  simp only [Chip.testDropped, Chip.withdraw_port, MemoryPort.withdraw_queue, if_neg h]

end

theorem Chip.abandonTest_inReach {c : Chip} (h : c.portInReach = true) (ha : c.engine.areaInReach = true) :
    c.abandonTest.portInReach = true := by
  refine Chip.abandonTest_cases (fun d => d.portInReach = true) (fun _ => h) fun _ => ?_
  refine Chip.portInReach_ask _ _ _ ?_ (EngineControl.reaches_area_write ?_ _ _ _ (by decide))
  · refine Chip.portInReach_of_port c.testDropped _ ?_ (Chip.examineSupply_port _) (by rw [Chip.examineSupply_engine])
    exact Chip.portInReach_withdraw _ .engine (Purpose.isLoadFor .dotTest) h
  · rw [Chip.examineSupply_engine]
    exact ha

/-! ### The Fault Record -/

theorem EngineControl.reaches_record {e : EngineControl} (h : e.areaInReach = true) (p : Purpose) :
    e.reaches (recordAccess p) = true := by
  simp only [EngineControl.areaInReach, decide_eq_true_eq] at h
  simp only [EngineControl.reaches, recordAccess, EngineControl.locate, Bool.false_or]
  exact decide_eq_true (by omega)

theorem Chip.wantFaultRecord_inReach {c : Chip} (h : c.portInReach = true) (ha : c.engine.areaInReach = true) :
    c.wantFaultRecord.portInReach = true := by
  unfold Chip.wantFaultRecord
  split
  · rw [Chip.portInReach_iff] at h ⊢
    intro q a hq
    cases q with
    | engine =>
      obtain ⟨a', hmem, rfl⟩ := List.mem_map.1 hq
      split
      · exact EngineControl.reaches_record ha _
      · exact h .engine a' hmem
    | job => exact h .job a hq
    | composer => exact h .composer a hq
  · exact Chip.portInReach_ask _ _ _ h (EngineControl.reaches_record ha _)

theorem Chip.wantFaultRecord_queue_other (c : Chip) {q : Requester} (h : q ≠ .engine) :
    c.wantFaultRecord.port.asked q = c.port.asked q := by
  rw [Chip.wantFaultRecord_eq]
  cases q with
  | engine => exact absurd rfl h
  | job => rfl
  | composer => rfl

/-- Engine Control's accesses that stay at a halt (R173, R177). -/
def Chip.staysAtHalt (c : Chip) (p : Purpose) : Bool := !(p.isLoading || (c.testInHand && p.isLoadFor .dotTest))

theorem Chip.staysAtHalt_of_record (c : Chip) {p : Purpose} (h : p.isRecord = true) : c.staysAtHalt p = true := by
  have hstays : (!(false || (c.testInHand && false))) = true := by rw [Bool.and_false]; rfl
  cases p with
  | faultRecord => exact hstays
  | faultRewrite => exact hstays
  | _ => exact Bool.noConfusion h

/-- What Engine Control has asked for at a halt, from its queue once the loads are withdrawn and an abandoned test's
outcome is to be written (R173, R177, R178). -/
theorem Chip.engineAskedAtHalt_of_queue {c d : Chip}
    (h : d.port.queue .engine
      = (c.port.queue .engine).filter (fun a => c.staysAtHalt a.purpose)
        ++ if c.testInHand then [abandonedWrite] else []) :
    d.wantFaultRecord.port.asked .engine = c.engineAskedAtHalt := by
  have hkeep : ∀ a : Access, c.staysAtHalt (if a.recordWaits then recordAccess .faultRecord else a.request).purpose
      = c.staysAtHalt a.purpose := by
    intro a
    split
    · next hw =>
      have hrecord : a.purpose.isRecord = true := (Bool.and_eq_true_iff.1 hw).1
      rw [c.staysAtHalt_of_record hrecord, c.staysAtHalt_of_record rfl]
    · rfl
  have hwaits : ∀ a : Access, (c.staysAtHalt a.purpose && a.recordWaits) = a.recordWaits := by
    intro a
    cases hw : a.recordWaits with
    | false => exact Bool.and_false _
    | true => rw [c.staysAtHalt_of_record (Bool.and_eq_true_iff.1 hw).1, Bool.and_true]
  have hwritten : (if c.testInHand then [abandonedWrite] else []).map
        (fun a : Access => if a.recordWaits then recordAccess .faultRecord else a.request)
      = if c.testInHand then [abandonedWrite] else [] := by
    split <;> rfl
  have hnone : (if c.testInHand then [abandonedWrite] else []).any Access.recordWaits = false := by
    split <;> rfl
  rw [Chip.wantFaultRecord_asked, show d.port.engineQueue = _ from h, List.map_append, List.any_append, hwritten, hnone,
    Bool.or_false, List.any_filter]
  simp only [hwaits]
  rw [Chip.engineAskedAtHalt, List.filter_map]
  rw [← show _ = (fun a : Access => c.staysAtHalt a.purpose) from funext hkeep]
  rfl

/-! ### The halt -/

/-- What a requester has asked for once a first cause has halted the engine (R44, R71, R177, R178). -/
def Chip.askedAtHalt (c : Chip) (q : Requester) : List Access :=
  match q with
  | .job => (c.asked .job).filter fun a => !a.purpose.endsAtHalt
  | .composer => []
  | .engine => c.engineAskedAtHalt

/-- The part `d` is the part `c`, halted by its first cause `k` with `ticket` captured (R178). -/
structure Chip.HaltsAs (c : Chip) (k : Cause) (ticket : Word) (d : Chip) : Prop where
  engine : d.engine = { (c.engine.raise .halt) with
    state := .halted, haltedFrom := some c.engine.state, firstCause := some k, further := 0
    capture := some (c.captureOf k ticket) }
  job : d.job = ({ c.job with samplingReported := false } : JobController).suspend
  composer : d.composer = .emptied .suspended
  motion : d.motion = { c.motion.still with operation := .none, searchCount := 0 }
  burn : d.burn.quiet
  headClosed : d.scanner.headClosed = c.scanner.headClosed
  supplyCode : d.scanner.supply = c.scanner.supply
  tripLatch : d.protection.tripLatch = c.protection.tripLatch
  supply : d.protection.supply = .off ∧ d.protection.gate = .closed ∧ d.protection.lowRun = 0
  asked : ∀ q, d.port.asked q = c.askedAtHalt q
  inReach : d.portInReach = true

/-- The entry to HALTED, up to the dot test in hand (R178, R44, R71, R123, R146, R177). -/
def Chip.haltsBlocks (c : Chip) : Chip :=
  let c1 := { c with engine := { c.engine with state := .halted, haltedFrom := some c.engine.state } }
  let c2 := (c1.stopMotion.suspendComposer).abandonBurn
  ({ (c2.withdraw .job Purpose.endsAtHalt) with job := c2.job.suspend } : Chip).withdraw .engine Purpose.isLoading

theorem Chip.enterHalted_eq (c : Chip) : c.enterHalted = c.haltsBlocks.abandonTest.examineSupply := rfl

theorem Chip.haltsBlocks_queue (c : Chip) (q : Requester) :
    c.haltsBlocks.port.queue q = match q with
      | .job => (c.port.queue .job).filter fun a => !a.purpose.endsAtHalt
      | .composer => []
      | .engine => (c.port.queue .engine).filter fun a => !a.purpose.isLoading := by
  have hqueue : c.haltsBlocks.port = ((c.port.withdraw .composer fun _ => true).withdraw .job
    Purpose.endsAtHalt).withdraw .engine Purpose.isLoading := rfl
  rw [hqueue]
  cases q <;> simp [MemoryPort.withdraw_queue]

theorem Chip.haltsBlocks_inReach {c : Chip} (hs : c.engine.state ≠ .stopped) (h : c.portInReach = true) :
    c.haltsBlocks.portInReach = true := by
  refine Chip.portInReach_sublist h (fun q a ha => ?_) (EngineControl.areaBase_inUse hs).symm
  rw [Chip.haltsBlocks_queue] at ha
  cases q with
  | job => exact (List.mem_filter.1 ha).1
  | composer => exact absurd ha List.not_mem_nil
  | engine => exact (List.mem_filter.1 ha).1

@[simp] theorem Chip.wantFaultRecord_engine (c : Chip) : c.wantFaultRecord.engine = c.engine := by
  rw [Chip.wantFaultRecord_eq]
@[simp] theorem Chip.wantFaultRecord_job (c : Chip) : c.wantFaultRecord.job = c.job := by rw [Chip.wantFaultRecord_eq]
@[simp] theorem Chip.wantFaultRecord_composer (c : Chip) : c.wantFaultRecord.composer = c.composer := by
  rw [Chip.wantFaultRecord_eq]
@[simp] theorem Chip.wantFaultRecord_burn (c : Chip) : c.wantFaultRecord.burn = c.burn := by
  rw [Chip.wantFaultRecord_eq]
@[simp] theorem Chip.wantFaultRecord_motion (c : Chip) : c.wantFaultRecord.motion = c.motion := by
  rw [Chip.wantFaultRecord_eq]
@[simp] theorem Chip.wantFaultRecord_scanner (c : Chip) : c.wantFaultRecord.scanner = c.scanner := by
  rw [Chip.wantFaultRecord_eq]
@[simp] theorem Chip.wantFaultRecord_protection (c : Chip) : c.wantFaultRecord.protection = c.protection := by
  rw [Chip.wantFaultRecord_eq]

/-- The part with a cause taken as the first cause, before it halts (R178). -/
def Chip.withCause (k : Cause) (ticket : Word) (c : Chip) : Chip :=
  { c with engine := { (c.engine.raise .halt) with
      firstCause := some k, further := 0, capture := some (c.captureOf k ticket) } }

theorem Chip.reportFault_first {c : Chip} (hs : c.engine.state = .running) (hf : c.engine.firstCause = none)
    (k : Cause) (ticket : Word) :
    c.reportFault k ticket = (c.withCause k ticket).enterHalted.wantFaultRecord := by
  have hhalts : c.engine.state.halts = true := by rw [hs]; rfl
  simp only [Chip.reportFault, if_pos hf, hhalts, if_true]
  rfl

/-- What the loads of LOADING and of a test's start leave of Engine Control's queue at a halt. -/
theorem Chip.enterHalted_engineQueue (c : Chip) :
    c.enterHalted.port.queue .engine
      = (c.port.queue .engine).filter (fun a => c.staysAtHalt a.purpose)
        ++ if c.testInHand then [abandonedWrite] else [] := by
  rw [Chip.enterHalted_eq, Chip.examineSupply_port, Chip.abandonTest_engineQueue, Chip.haltsBlocks_queue,
    List.filter_filter]
  simp only [Chip.staysAtHalt, Bool.not_or, Bool.and_comm]
  rfl

/-- In HALTED, with no test in hand, nothing asks for the supply (R162). -/
theorem Chip.haltsBlocks_unwanted (c : Chip) : c.haltsBlocks.abandonTest.supplyWanted = false := by
  have hstate : c.haltsBlocks.engine.state = .halted := rfl
  simp [Chip.supplyWanted, hstate, TestState.isTesting]

theorem Chip.enterHalted_supply (c : Chip) : c.enterHalted.protection = { c.haltsBlocks.abandonTest.protection with
    supply := .off, gate := .closed, lowRun := 0 } := by
  rw [Chip.enterHalted_eq, Chip.examineSupply_off c.haltsBlocks_unwanted]

/-- A first cause in RUNNING halts the engine (R178). -/
theorem Chip.reportFault_halts {c : Chip} (hs : c.engine.state = .running) (hf : c.engine.firstCause = none)
    (hin : c.portInReach = true) (ha : c.engine.areaInReach = true) (k : Cause) (ticket : Word) :
    c.HaltsAs k ticket (c.reportFault k ticket) := by
  rw [Chip.reportFault_first hs hf]
  have hrunning : c.engine.state ≠ .stopped := by
    rw [hs]
    exact EngineState.noConfusion
  have hinCause : (c.withCause k ticket).portInReach = true := Chip.portInReach_of_port c _ hin rfl rfl
  have hareaHalted : (c.withCause k ticket).haltsBlocks.engine.areaInReach = true :=
    (EngineControl.areaInReach_congr (e := c.engine) (f := (c.withCause k ticket).haltsBlocks.engine)
      (EngineControl.areaBase_inUse hrunning).symm).trans ha
  have hinHalted : (c.withCause k ticket).enterHalted.portInReach = true := by
    refine Chip.portInReach_of_port (c.withCause k ticket).haltsBlocks.abandonTest _
      (Chip.abandonTest_inReach (Chip.haltsBlocks_inReach hrunning hinCause) hareaHalted) ?_ ?_
    · rw [Chip.enterHalted_eq, Chip.examineSupply_port]
    · rw [Chip.enterHalted_eq, Chip.examineSupply_engine]
  constructor
  case engine => simp only [Chip.wantFaultRecord_engine, Chip.enterHalted_eq, Chip.examineSupply_engine,
    Chip.abandonTest_engine]; rfl
  case job => simp only [Chip.wantFaultRecord_job, Chip.enterHalted_eq, Chip.examineSupply_job,
    Chip.abandonTest_job]; rfl
  case composer => simp only [Chip.wantFaultRecord_composer, Chip.enterHalted_eq, Chip.examineSupply_composer,
    Chip.abandonTest_composer]; rfl
  case motion => simp only [Chip.wantFaultRecord_motion, Chip.enterHalted_eq, Chip.examineSupply_motion,
    Chip.abandonTest_motion]; rfl
  case burn =>
    rw [Chip.wantFaultRecord_burn, Chip.enterHalted_eq]
    exact Chip.examineSupply_quiet (Chip.abandonTest_quiet ⟨rfl, rfl⟩)
  case headClosed => simp only [Chip.wantFaultRecord_scanner, Chip.enterHalted_eq, Chip.examineSupply_scanner,
    Chip.abandonTest_headClosed]; rfl
  case supplyCode => simp only [Chip.wantFaultRecord_scanner, Chip.enterHalted_eq, Chip.examineSupply_scanner,
    Chip.abandonTest_supplyCode]; rfl
  case tripLatch =>
    rw [Chip.wantFaultRecord_protection, Chip.enterHalted_supply]
    exact Chip.abandonTest_tripLatch _
  case supply =>
    rw [Chip.wantFaultRecord_protection, Chip.enterHalted_supply]
    exact ⟨rfl, rfl, rfl⟩
  case asked =>
    intro q
    cases q with
    | engine => exact Chip.engineAskedAtHalt_of_queue (c := c) (c.withCause k ticket).enterHalted_engineQueue
    | job =>
      rw [Chip.wantFaultRecord_queue_other _ (by decide), MemoryPort.asked, Chip.enterHalted_eq,
        Chip.examineSupply_port, Chip.abandonTest_queue_other _ (by decide), Chip.haltsBlocks_queue]
      show ((c.port.queue .job).filter fun a => !a.purpose.endsAtHalt).map Access.request
        = ((c.port.queue .job).map Access.request).filter fun a => !a.purpose.endsAtHalt
      rw [List.filter_map]
      rfl
    | composer =>
      rw [Chip.wantFaultRecord_queue_other _ (by decide), MemoryPort.asked, Chip.enterHalted_eq,
        Chip.examineSupply_port, Chip.abandonTest_queue_other _ (by decide), Chip.haltsBlocks_queue]
      rfl
  case inReach =>
    refine Chip.wantFaultRecord_inReach hinHalted ?_
    rw [Chip.enterHalted_eq, Chip.examineSupply_engine, Chip.abandonTest_engine]
    exact hareaHalted

/-! ### Trips -/

/-- What a trip leaves of the part that it halts, from RUNNING with no cause held (R165, R178). -/
structure Chip.TripsAs (c : Chip) (k : Cause) (d : Chip) : Prop where
  state : d.engine.state = .halted ∧ d.engine.haltedFrom = some .running
  cause : d.engine.firstCause = some k ∧ d.engine.isPending .halt = true
  composer : d.composer = .emptied .suspended
  motion : d.motion = { c.motion.still with operation := .none, searchCount := 0 }
  burn : d.burn.quiet
  headClosed : d.scanner.headClosed = c.scanner.headClosed
  supplyCode : d.scanner.supply = c.scanner.supply
  tripLatch : d.protection.tripLatch = true
  supply : d.protection.supply = .off ∧ d.protection.gate = .closed ∧ d.protection.lowRun = 0
  asked : ∀ q, d.port.asked q = c.askedAtHalt q
  inReach : d.portInReach = true

theorem EngineControl.raise_isPending (e : EngineControl) (v : Event) : (e.raise v).isPending v = true := by
  cases v <;> simp [EngineControl.raise, EngineControl.isPending, Event.bit]

/-- The part with the latch set and its test abandoned, before the cause is reported (R165). -/
def Chip.latched (c : Chip) : Chip :=
  ({ c with protection := { c.protection with tripLatch := true } } : Chip).examineSupply.abandonTest

/-- With its test abandoned already, the part leaves asked for at a halt what it would with it in hand. -/
theorem Chip.latched_engineAskedAtHalt (c : Chip) : c.latched.engineAskedAtHalt = c.engineAskedAtHalt := by
  have hidle : c.latched.testInHand = false := by simp [Chip.testInHand, Chip.latched]
  have hqueue : c.latched.port.queue .engine = (c.port.queue .engine).filter
      (fun a => !(c.testInHand && a.purpose.isLoadFor .dotTest)) ++ if c.testInHand then [abandonedWrite] else [] := by
    rw [Chip.latched, Chip.abandonTest_engineQueue, Chip.examineSupply_port]
    simp only [Chip.testInHand, Chip.examineSupply_test]
    rfl
  have hstays : ∀ p, c.latched.staysAtHalt p = !p.isLoading := fun p => by
    rw [Chip.staysAtHalt, hidle, Bool.false_and, Bool.or_false]
  have hwritten : (if c.testInHand then [abandonedWrite] else []).filter (fun a => !a.purpose.isLoading)
      = if c.testInHand then [abandonedWrite] else [] := by
    split <;> rfl
  have hhalted : c.latched.enterHalted.port.queue .engine
      = (c.port.queue .engine).filter (fun a => c.staysAtHalt a.purpose)
        ++ if c.testInHand then [abandonedWrite] else [] := by
    rw [Chip.enterHalted_engineQueue, hidle, hqueue, if_neg Bool.false_ne_true, List.append_nil, List.filter_append,
      List.filter_filter]
    simp only [hstays, hwritten]
    simp only [Chip.staysAtHalt, Bool.not_or]
  exact (Chip.engineAskedAtHalt_of_queue c.latched.enterHalted_engineQueue).symm.trans
    (Chip.engineAskedAtHalt_of_queue hhalted)

/-- A trip in RUNNING with no cause held (R165). -/
theorem Chip.trip_halts {c : Chip} (hs : c.engine.state = .running) (hf : c.engine.firstCause = none)
    (hin : c.portInReach = true) (ha : c.engine.areaInReach = true) (k : Cause) : c.TripsAs k (c.trip k) := by
  have hengine : c.latched.engine = c.engine := by simp [Chip.latched]
  have hinTripped : ({ c with protection := { c.protection with tripLatch := true } } : Chip).examineSupply.portInReach
      = true :=
    Chip.portInReach_of_port c _ hin (Chip.examineSupply_port _) (by rw [Chip.examineSupply_engine])
  have hinLatched : c.latched.portInReach = true :=
    Chip.abandonTest_inReach hinTripped (by rw [Chip.examineSupply_engine]; exact ha)
  have h : c.latched.HaltsAs k _ (c.trip k) := Chip.reportFault_halts (by rw [hengine]; exact hs)
    (by rw [hengine]; exact hf) hinLatched (by rw [hengine]; exact ha) k _
  constructor
  case state =>
    rw [h.engine, hengine, hs]
    exact ⟨rfl, rfl⟩
  case cause =>
    rw [h.engine]
    exact ⟨rfl, EngineControl.raise_isPending _ _⟩
  case composer => exact h.composer
  case motion =>
    rw [h.motion]
    simp [Chip.latched]
  case burn => exact h.burn
  case headClosed =>
    rw [h.headClosed]
    simp [Chip.latched]
  case supplyCode =>
    rw [h.supplyCode]
    simp [Chip.latched]
  case tripLatch =>
    rw [h.tripLatch]
    simp [Chip.latched]
  case supply => exact h.supply
  case asked =>
    intro q
    rw [h.asked]
    cases q with
    | engine => exact c.latched_engineAskedAtHalt
    | composer => rfl
    | job =>
      have hjob : c.latched.port.queue .job = c.port.queue .job := by
        rw [Chip.latched, Chip.abandonTest_queue_other _ (by decide), Chip.examineSupply_port]
      simp only [Chip.askedAtHalt, Chip.asked, MemoryPort.asked, hjob]
  case inReach => exact h.inReach

end Sys2Proof.Machine
end

section
/-! The Job Controller's way to a copy: looks, the promotion and the taking of a ticket, and the copy's start. -/

namespace Sys2Proof.Machine

open Sys2Proof

/-! ### The end of a burst that its access waits for -/

/-- The part with the burst in flight ended, and `rest` left of the queue of its requester (R18). -/
def Chip.served (q : Requester) (rest : List Access) (c : Chip) : Chip :=
  { c with port := { c.port with inFlight := none }.setQueue q rest }

theorem Chip.served_queue_same (q : Requester) (rest : List Access) (c : Chip) :
    (c.served q rest).port.queue q = rest := MemoryPort.queue_setQueue _ _ _

theorem Chip.served_queue_other {q r : Requester} (h : r ≠ q) (rest : List Access) (c : Chip) :
    (c.served q rest).port.queue r = c.port.queue r := by
  rw [Chip.served, MemoryPort.queue_setQueue_ne _ _ _ _ h]
  cases r <;> rfl

theorem Chip.served_asked_same (q : Requester) (rest : List Access) (c : Chip) :
    (c.served q rest).port.asked q = rest.map Access.request := by
  rw [MemoryPort.asked, Chip.served_queue_same]

theorem Chip.served_asked_other {q r : Requester} (h : r ≠ q) (rest : List Access) (c : Chip) :
    (c.served q rest).port.asked r = c.asked r := by
  rw [MemoryPort.asked, Chip.served_queue_other h]
  rfl

theorem Chip.served_inReach {q : Requester} {a : Access} {rest : List Access} {c : Chip}
    (h : c.portInReach = true) (hq : c.port.queue q = a :: rest) : (c.served q rest).portInReach = true := by
  refine Chip.portInReach_sublist h (fun r x hx => ?_) rfl
  by_cases hr : r = q
  · subst hr
    rw [Chip.served_queue_same] at hx
    rw [hq]
    exact List.mem_cons_of_mem _ hx
  · rwa [Chip.served_queue_other hr] at hx

/-- The last burst of an access completes it (R18). -/
theorem Chip.burstDone_completes {c : Chip} {b : Burst} {a : Access} {rest : List Access}
    (hd : b.withdrawn = false) (hq : c.port.queue b.requester = a :: rest) (hc : a.length ≤ a.carried + b.length)
    (read : List Byte) :
    c.burstDone b read
      = (c.served b.requester rest).accessDone a.purpose (if a.write then a.data else a.data ++ read) := by
  have hqueue : ({ c.port with inFlight := none } : MemoryPort).queue b.requester = a :: rest := by
    rw [← hq]
    cases b.requester <;> rfl
  simp only [Chip.burstDone, hd, Bool.false_eq_true, if_false, hqueue]
  rw [if_neg (by simpa using hc)]
  rfl

section
variable {s : State} {b : Burst} {a : Access} {rest : List Access} (hr : s.resetPin = false)
  (hw : s.resetWaiting = false) (hb : s.chip.port.inFlight = some b) (hd : b.withdrawn = false)
  (hq : s.chip.port.queue b.requester = a :: rest) (hc : a.length ≤ a.carried + b.length) (ws : HostWrites)
include hr hw hb hd hq hc

/-- The burst that completes a read: its requester goes on with the bytes (R18). -/
theorem execBurstComplete_completes_read (hread : b.write = false) (haw : a.write = false) :
    execBurstComplete ws s = .next { s with
      memory := Memory.hostWrite s.memory ws
      chip := ((s.chip.served b.requester rest).accessDone a.purpose
        (a.data ++ Memory.readRun (Memory.hostWrite s.memory ws) b.addr b.length)).settlePort } := by
  rw [execBurstComplete_read hr hb ws hread, State.afterBurst_goesOn hw, Chip.burstDone_completes hd hq hc, haw,
    if_neg Bool.false_ne_true]

/-- The burst that completes a write: its requester goes on (R18). -/
theorem execBurstComplete_completes_write (hwrite : b.write = true) (haw : a.write = true) :
    execBurstComplete ws s = .next { s with
      memory := Memory.writeRun (Memory.hostWrite s.memory ws) b.addr b.data
      chip := ((s.chip.served b.requester rest).accessDone a.purpose a.data).settlePort } := by
  rw [execBurstComplete_write hr hb ws hwrite, State.afterBurst_goesOn hw, Chip.burstDone_completes hd hq hc, haw,
    if_pos rfl]

end

/-! ### Promotion and starts -/

/-- Settles O28: the promotion reads State at the ticket's address. -/
theorem promotionRereadsState : Obligations.PromotionRereadsState := by
  intro s addr bytes v hr hbuffer hcurrent hending hrunning hactivity haddr hreach
  have hmay : s.chip.mayPromote = true := by
    simp [Chip.mayPromote, hbuffer, NextBuffer.isFull, hcurrent, hending, hrunning, hactivity]
  have hpromote : s.chip.promote = ({ s.chip with job := { s.chip.job with
      activity := .promotion .reread, promoStop := false, promoCancel := false, promoHalt := false } } : Chip).ask .job
        (readAccess .promotionState (.at (addr.toNat + 4)) 1) := by
    have haddrIs : s.chip.job.nextBuffer.addr = addr := by
      rw [hbuffer]
      rfl
    rw [Chip.promote, haddrIs]
    rfl
  have hin : s.chip.promote.portInReach = true := by
    rw [hpromote]
    exact Chip.portInReach_ask _ _ _ hreach (EngineControl.reaches_at _ _ haddr)
  obtain ⟨p, hexec, hasked⟩ := State.event_asked (f := Chip.promote) hr hmay hin
  rw [hpromote] at hexec
  simp only [hpromote] at hasked
  refine ⟨p, hexec, ?_, ?_, ?_⟩
  · rw [hasked, Chip.ask_asked_same]
    rfl
  · exact (hasked _).trans (Chip.ask_asked_other _ _ _ _ (by decide))
  · exact (hasked _).trans (Chip.ask_asked_other _ _ _ _ (by decide))

theorem Chip.startConditions_ready {c : Chip} {t : Ticket} (h : c.job.current = some t)
    (ht : c.protection.test = .idle) (hs : c.engine.state = .running) (hj : c.job.jobState = .ready)
    (hg : c.protection.gate = .opened) (hn : t.kind = .print → c.protection.thermal = .normal) :
    c.startConditions = true := by
  simp only [Chip.startConditions, Chip.startable, h, ht, hs, hj, hg, decide_true, Bool.and_true, Bool.true_and,
    Bool.or_eq_true, decide_eq_true_eq]
  exact (Classical.em (t.kind = .print)).symm.imp_right hn

/-- Settles O30: both starts ask for the Generation first. -/
theorem startsLoadSettingsFirst : Obligations.StartsLoadSettingsFirst := by
  intro s hr hreach harea
  refine ⟨fun t hcurrent htest hrunning hready hgate hthermal hstarting => ?_, fun htesting hstate => ?_⟩
  · have hmay : (s.chip.startConditions && !s.chip.job.starting) = true := by
      rw [Chip.startConditions_ready hcurrent htest hrunning hready hgate hthermal, hstarting]
      rfl
    have hin : s.chip.copyStart.portInReach = true :=
      Chip.portInReach_ask _ _ _ hreach (EngineControl.reaches_area harea _ _ _ (by decide))
    obtain ⟨p, hexec, hasked⟩ := State.event_asked (f := Chip.copyStart) hr hmay hin
    refine ⟨p, hexec, ?_, ?_, ?_⟩
    · exact (hasked _).trans (Chip.ask_asked_same _ _ _)
    · exact (hasked _).trans (Chip.ask_asked_other _ _ _ _ (by decide))
    · exact (hasked _).trans (Chip.ask_asked_other _ _ _ _ (by decide))
  · have hmay : s.chip.takesDotTest = true := by
      rcases hstate with hstopped | ⟨hrunning, hstill, hjob⟩
      · simp [Chip.takesDotTest, htesting, hstopped]
      · simp [Chip.takesDotTest, htesting, hrunning, hstill, hjob]
    have hin : s.chip.dotTest.portInReach = true :=
      Chip.portInReach_ask _ _ _ hreach (EngineControl.reaches_area harea _ _ _ (by decide))
    obtain ⟨p, hexec, hasked⟩ := State.command_asked (name := .dotTest) (f := Chip.dotTest) hr hmay hin
    refine ⟨p, hexec, ?_, ?_, ?_⟩
    · exact (hasked _).trans (Chip.ask_asked_other _ _ _ _ (by decide))
    · exact (hasked _).trans (Chip.ask_asked_other _ _ _ _ (by decide))
    · exact (hasked _).trans (Chip.ask_asked_same _ _ _)

/-! ### The taking of a ticket -/

/-- The ticket whose TAKEN write has completed in DRY is current and in READY, and a look is in flight (R29, R30,
R24). -/
def Chip.withTicket (t : Ticket) (c : Chip) : Chip :=
  { c with
    job := { c.job with
      current := some t, held := t.addr, nextBuffer := .empty, result := .zero, copyInHand := 1
      dryMark := false, jobState := .ready, compositionStart := some 1, activity := .look false
      promoStop := false, promoCancel := false, promoHalt := false }
    scanner := { c.scanner with lowMark := false } }

/-- A promotion that met no STOP and no CANCEL CHAIN ends in a look (R27, R24). -/
theorem Chip.meetTaken_none {c : Chip} (hs : c.job.promoStop = false) (hc : c.job.promoCancel = false) :
    c.meetTaken = c := by
  simp [Chip.meetTaken, hs, hc]

theorem Chip.tryWalk_none {c : Chip} (h : c.job.walkWaiting = false) : c.tryWalk = c := by
  simp [Chip.tryWalk, h]

theorem Chip.taken_valid {c : Chip} {addr : Word} {bytes : List Byte} {t : Ticket}
    (h : c.job.nextBuffer = .full addr bytes (.valid t)) :
    c.taken = (c.takeTicket t).meetTaken.leavePromotion.afterPromotion := by
  simp only [Chip.taken, h]

theorem Chip.takeTicket_dry {c : Chip} {t : Ticket} (hj : c.job.jobState = .dry) (hp : t.kind = .print)
    (hs : c.engine.state = .running) (hi : c.composer.state = .idle) :
    c.takeTicket t = (({ c with
      job := { c.job with
        current := some t, held := t.addr, nextBuffer := .empty, result := .zero, copyInHand := 1
        dryMark := false, jobState := .ready, compositionStart := some 1 }
      scanner := { c.scanner with lowMark := false } } : Chip).ask .job
        (writeAccess .heldWrite (.area 0x004) (leBytes 4 t.addr.toNat))).ask .job
          (readAccess (.resourceTable 1) (.area 0x0B0) 256) := by
  rw [Chip.takeTicket, if_pos hp, Chip.startComposition_given]
  · simp only [hj]
    rfl
  · exact hs
  · exact hi

/-- A ticket's TAKEN write completes in DRY, with no STOP or CANCEL CHAIN met: the look on its Next follows its Held
Ticket write and its first copy's Resource Table read (R29, R32, R24). -/
theorem Chip.taken_dry {c : Chip} {addr : Word} {bytes : List Byte} {t : Ticket}
    (h : c.job.nextBuffer = .full addr bytes (.valid t)) (hj : c.job.jobState = .dry) (hp : t.kind = .print)
    (hs : c.engine.state = .running) (hi : c.composer.state = .idle) (hstop : c.job.promoStop = false)
    (hcancel : c.job.promoCancel = false) (hwalk : c.job.walkWaiting = false) (he : c.job.ending = none)
    (hne : t.addr ≠ 0) :
    c.taken = (((c.withTicket t).ask .job (writeAccess .heldWrite (.area 0x004) (leBytes 4 t.addr.toNat))).ask .job
      (readAccess (.resourceTable 1) (.area 0x0B0) 256)).ask .job (readAccess .lookLink (.at t.addr.toNat) 4) := by
  rw [Chip.taken_valid h, Chip.takeTicket_dry hj hp hs hi, Chip.meetTaken_none, Chip.afterPromotion, Chip.tryWalk_none,
    Chip.lookTrigger_waiting, Chip.startLook_eq]
  · have hlink : (if t.addr = 0 then Location.area 0x000 else .at t.addr.toNat) = .at t.addr.toNat := if_neg hne
    rw [← hlink]
    rfl
  · exact Chip.notLooking_of_none rfl
  · exact Chip.waits_of hs rfl rfl he
  · exact hwalk
  · exact hstop
  · exact hcancel

/-- Settles O29: the write completes the promotion, and a look follows. -/
theorem takenWriteMakesTicketCurrent : Obligations.TakenWriteMakesTicketCurrent := by
  intro s ws b a addr bytes t hr hwait hb hq hwrite hd hqueue hp haw hc hbuffer hkind hcurrent hending hactivity
    hpstop hpcancel hwalk hdry hrunning hidle hne haddr hreach harea
  have hqueue' : s.chip.port.queue b.requester = a :: [] := by
    rw [hq]
    exact hqueue
  have htaken := Chip.taken_dry (c := s.chip.served .job []) hbuffer hdry hkind hrunning hidle hpstop hpcancel hwalk
    hending hne
  have hdone : (s.chip.served b.requester []).accessDone a.purpose a.data = (s.chip.served .job []).taken := by
    rw [hq, hp]
    rfl
  have hexec := execBurstComplete_completes_write hr hwait hb hd hqueue' hc ws hwrite haw
  rw [hdone] at hexec
  have hin : (s.chip.served .job []).taken.portInReach = true := by
    rw [htaken]
    refine Chip.portInReach_ask _ _ _ (Chip.portInReach_ask _ _ _ (Chip.portInReach_ask _ _ _
      (Chip.served_inReach (q := .job) hreach hqueue) ?_) ?_) ?_
    · exact EngineControl.reaches_area_write harea _ _ _ (by rw [leBytes_length]; decide)
    · exact EngineControl.reaches_area harea _ _ _ (by decide)
    · exact EngineControl.reaches_at _ _ haddr
  have hasked := Chip.settlePort_port_asked _ hin
  refine ⟨(s.chip.served .job []).taken.settlePort.port, ?_, ?_, ?_, ?_⟩
  · show execBurstComplete ws s = _
    rw [hexec, Chip.settlePort_inReach _ hin, htaken]
    rfl
  · rw [hasked, htaken]
    simp only [Chip.ask_asked_same, Access.request_read, Access.request_write Purpose.heldWrite _ _ rfl]
    rfl
  · rw [hasked, htaken]
    simp only [Chip.ask_asked_other _ .job .composer _ (by decide)]
    exact Chip.served_asked_other (q := .job) (by decide) _ _
  · rw [hasked, htaken]
    simp only [Chip.ask_asked_other _ .job .engine _ (by decide)]
    exact Chip.served_asked_other (q := .job) (by decide) _ _

/-! ### The start of a copy -/

theorem Chip.settleMotion_resting {c : Chip} (ht : c.motion.timer ≠ .expired) (hs : c.motion.state ≠ .forward) :
    c.settleMotion = c := by
  rw [Chip.settleMotion, MotionController.settle_running ht]
  exact Chip.checkDwell_not_forward hs

theorem SensorScanner.meetKind_same {kind : MediaKind} {sc : SensorScanner} (h : kind = sc.values.mediaKind) :
    sc.meetKind kind = sc := if_pos h

/-- An alignment on CONTINUOUS media with nothing presented: its target is one line ahead (R134, R138). -/
theorem MotionController.giveAlignment_continuous {m : MotionController} (hp : m.presentedLines = 0)
    (hk : m.values.mediaKind = .continuous) :
    m.giveAlignment = { m with operation := .align (some (m.position + 1)) true, searchCount := 0 } := by
  rw [MotionController.giveAlignment, if_pos hp, MotionController.beginAlign, if_pos hk]

/-- The start of a PRINT ticket's copy goes on once its load has ended (R31). -/
theorem Chip.proceedStart_print {c : Chip} {t : Ticket} {v : Settings} (hc : c.job.current = some t)
    (hv : c.job.snapshot = some v) (hstart : c.startConditions = true) (hp : t.kind = .print) :
    c.proceedStart = ((({ c with
        job := { c.job with starting := false }, scanner := c.scanner.meetKind v.mediaKind } : Chip).handover v
          (t.speed.getD v.defaultSpeed)).beginCopy t v).settleMotion := by
  unfold Chip.proceedStart
  split
  · next t' v' ht hv' =>
    cases hc.symm.trans ht
    cases hv.symm.trans hv'
    rw [if_pos hstart]
    simp only [hp]
  · next h => exact absurd hv (h t v hc)

/-- A copy other than the first starts on CONTINUOUS media, with nothing presented and Motion at rest (R31, R112). -/
theorem Chip.proceedStart_continuous {c : Chip} {t : Ticket} {v : Settings} (hc : c.job.current = some t)
    (hv : c.job.snapshot = some v) (hstart : c.startConditions = true) (hp : t.kind = .print)
    (hcopy : c.job.copyInHand ≠ 1) (hk : v.mediaKind = .continuous)
    (hk' : c.scanner.values.mediaKind = .continuous) (hpresented : c.motion.presentedLines = 0)
    (hs : c.motion.state = .still) (ht : c.motion.timer = .stopped) :
    c.proceedStart = { c with
      job := { c.job with starting := false, jobState := .align }
      burn := { c.burn with values := v.burnValues, darkness := t.darkness.getD v.defaultDarkness }
      protection := { c.protection with limits := some v.limits }
      scanner := { c.scanner with values := v.mediaValues }
      motion := { c.motion with
        values := v.motionValues (t.speed.getD v.defaultSpeed)
        operation := .align (some (c.motion.position + 1)) true, searchCount := 0 } } := by
  rw [Chip.proceedStart_print hc hv hstart hp, SensorScanner.meetKind_same (hk.trans hk'.symm)]
  unfold Chip.beginCopy
  rw [MotionController.giveAlignment_continuous, Chip.settleMotion_resting, if_neg]
  · rfl
  · exact hcopy
  · exact (ht ▸ PeriodTimer.noConfusion : c.motion.timer ≠ .expired)
  · exact (hs ▸ MotionState.noConfusion : c.motion.state ≠ .forward)
  · exact hpresented
  · exact hk

/-- Settles O31: the load ends at its first read, and the start goes on. -/
theorem unchangedSettingsStartCopy : Obligations.UnchangedSettingsStartCopy := by
  intro s ws b a rest t v gen hr hwait hb hq hread hd hlength hqueue hp haw hcarried halength hdata hcurrent hkind
    hrunning hready htest hgate hthermal hcopy hsnapshot hgen hsame hk hk' hpresented hstill htimer hreach
  have hqueue' : s.chip.port.queue b.requester = a :: rest := by
    rw [hq]
    exact hqueue
  have hstart : (s.chip.served .job rest).startConditions = true :=
    Chip.startConditions_ready (c := s.chip.served .job rest) hcurrent htest hrunning hready hgate fun _ => hthermal
  have hproceed := Chip.proceedStart_continuous (c := s.chip.served .job rest) hcurrent hsnapshot hstart hkind hcopy hk
    hk' hpresented hstill htimer
  have hdone : (s.chip.served b.requester rest).accessDone a.purpose
      (a.data ++ Memory.readRun (Memory.hostWrite s.memory ws) b.addr b.length)
        = (s.chip.served .job rest).proceedStart := by
    rw [hq, hp, hdata, hlength, List.nil_append]
    exact if_pos ⟨LoadPoint.noConfusion, hgen.trans (congrArg some hsame.symm)⟩
  have hexec := execBurstComplete_completes_read hr hwait hb hd hqueue' (by omega) ws hread haw
  rw [hdone] at hexec
  have hin : (s.chip.served .job rest).proceedStart.portInReach = true := by
    rw [hproceed]
    exact Chip.served_inReach (q := .job) hreach hqueue
  have hasked := Chip.settlePort_port_asked _ hin
  refine ⟨(s.chip.served .job rest).proceedStart.settlePort.port, ?_, ?_, ?_, ?_⟩
  · show execBurstComplete ws s = _
    rw [hexec, Chip.settlePort_inReach _ hin, hproceed]
    rfl
  · rw [hasked, hproceed]
    exact Chip.served_asked_same .job rest s.chip
  · rw [hasked, hproceed]
    exact Chip.served_asked_other (q := .job) (by decide) rest s.chip
  · rw [hasked, hproceed]
    exact Chip.served_asked_other (q := .job) (by decide) rest s.chip

end Sys2Proof.Machine
end

section
/-! A look's read of the link (R21, R23), and the halts: on a link that may not be followed, on a bus error, on a low
supply and on an open head. -/

namespace Sys2Proof.Machine

open Sys2Proof

/-! ### The link read -/

theorem Chip.linkRead_good {c : Chip} {v : Word} (hv : v ≠ 0) (hg : linkGood v = true) :
    c.linkRead v = ({ c with job := { c.job with lastLookZero := false } } : Chip).ask .job
      (readAccess (.lookHeader v) (.at v.toNat) 32) := by
  simp only [Chip.linkRead, decide_eq_false hv, if_neg hv, hg, if_true]

theorem Chip.linkRead_bad {c : Chip} {v : Word} (hv : v ≠ 0) (hg : linkGood v = false) :
    c.linkRead v = ({ c with job := { c.job with lastLookZero := false, activity := .none } } : Chip).reportFault
      .chainAddress v := by
  simp only [Chip.linkRead, decide_eq_false hv, if_neg hv, hg, Bool.false_eq_true, if_false]

/-- A look that remembers no trigger ends: while the Job Controller still waits, the look timer is started (R24). -/
theorem Chip.endLook_plain {c : Chip} (hs : c.engine.state = .running) (ha : c.job.activity = .look false) :
    c.endLook = { c with job := { c.job with
      activity := .none
      lookTimer :=
        if c.job.nextBuffer = .empty ∧ c.job.ending = none then c.lookDeadline else c.job.lookTimer } } := by
  have hwaits : ({ c with job := { c.job with activity := .none } } : Chip).waits
      = decide (c.job.nextBuffer = .empty ∧ c.job.ending = none) := by
    simp [Chip.waits, hs, JobActivity.leavesWaiting]
  have hplain : ¬ c.job.activity = .look true := by simp [ha]
  simp only [Chip.endLook, hwaits, decide_eq_true_eq, if_neg hplain]
  split <;> rfl

theorem Chip.linkRead_zero {c : Chip} (hs : c.engine.state = .running) (ha : c.job.activity = .look false) :
    c.linkRead 0 = (let raises := c.job.jobState = .dry ∧ c.job.dryMark = false
      { c with
        engine := { c.engine with
          pendingBits := if raises then c.engine.pendingBits ||| 0x02#7 else c.engine.pendingBits }
        job := { c.job with
          activity := .none, lastLookZero := true
          dryMark := if raises then true else c.job.dryMark
          lookTimer :=
            if c.job.nextBuffer = .empty ∧ c.job.ending = none then c.lookDeadline else c.job.lookTimer } }) := by
  unfold Chip.linkRead
  rw [if_pos rfl]
  by_cases hdry : c.job.jobState = .dry
  · rw [if_pos hdry, Chip.raiseDry_eq, Chip.endLook_plain]
    · cases hm : c.job.dryMark <;> simp only [hdry, true_and, if_true, Bool.true_eq_false, if_false] <;> rfl
    · exact hs
    · exact ha
  · rw [if_neg hdry, Chip.endLook_plain]
    · simp only [hdry, false_and, if_false]
      rfl
    · exact hs
    · exact ha

theorem Chip.captureOf_running {c : Chip} (h : c.engine.state = .running) (k : Cause) (ticket : Word) :
    c.captureOf k ticket
      = { cause := k, stateBefore := .running, ticket := ticket, copy := c.burn.lastCopy, line := c.burn.lastLine
          therm := c.scanner.therm, supply := c.scanner.supply, media := c.scanner.media } := by
  rw [Chip.captureOf, h]

@[simp] theorem JobController.suspend_held (j : JobController) : j.suspend.held = j.held := by
  unfold JobController.suspend JobController.dropLook
  split <;> rfl

@[simp] theorem JobController.suspend_current (j : JobController) : j.suspend.current = j.current := by
  unfold JobController.suspend JobController.dropLook
  split <;> rfl

/-- Settles O24, by the three ends of the read of the link. -/
theorem lookFollowsGoodLink : Obligations.LookFollowsGoodLink := by
  intro s ws b a rest hr hwait hb hq hread hd hlength hqueue hp haw hcarried halength hdata hrunning hfirst hactivity
    hreach harea v
  have hqueue' : s.chip.port.queue b.requester = a :: rest := by
    rw [hq]
    exact hqueue
  have hdone : (s.chip.served b.requester rest).accessDone a.purpose
      (a.data ++ Memory.readRun (Memory.hostWrite s.memory ws) b.addr b.length)
        = (s.chip.served .job rest).linkRead v := by
    rw [hq, hp, hdata, hlength, List.nil_append]
    rfl
  have hexec := execBurstComplete_completes_read hr hwait hb hd hqueue' (by omega) ws hread haw
  rw [hdone] at hexec
  have hinServed : (s.chip.served .job rest).portInReach = true := Chip.served_inReach (q := .job) hreach hqueue
  refine ⟨fun hv hgood haddr => ?_, fun hv hbad => ?_, fun hv => ?_⟩
  · have hlink := Chip.linkRead_good (c := s.chip.served .job rest) hv hgood
    have hin : ((s.chip.served .job rest).linkRead v).portInReach = true := by
      rw [hlink]
      exact Chip.portInReach_ask _ _ _ hinServed (EngineControl.reaches_at _ _ haddr)
    have hasked := Chip.settlePort_port_asked _ hin
    refine ⟨((s.chip.served .job rest).linkRead v).settlePort.port, ?_, ?_, ?_, ?_⟩
    · show execBurstComplete ws s = _
      rw [hexec, Chip.settlePort_inReach _ hin, hlink]
      rfl
    · rw [hasked, hlink, Chip.ask_asked_same]
      exact congrArg (· ++ _) (Chip.served_asked_same .job rest s.chip)
    · rw [hasked, hlink, Chip.ask_asked_other _ _ _ _ (by decide)]
      exact Chip.served_asked_other (q := .job) (by decide) rest s.chip
    · rw [hasked, hlink, Chip.ask_asked_other _ _ _ _ (by decide)]
      exact Chip.served_asked_other (q := .job) (by decide) rest s.chip
  · have hhalts : Chip.HaltsAs { s.chip.served .job rest with
        job := { s.chip.job with lastLookZero := false, activity := .none } } .chainAddress v
          ((s.chip.served .job rest).linkRead v) := by
      rw [Chip.linkRead_bad (c := s.chip.served .job rest) hv hbad]
      refine Chip.reportFault_halts ?_ ?_ ?_ ?_ _ _
      exacts [hrunning, hfirst, hinServed, harea]
    have hengine := (Chip.settlePort_engine _ hhalts.inReach).trans hhalts.engine
    have hjob := (Chip.settlePort_job _ hhalts.inReach).trans hhalts.job
    have hasked := fun q => (Chip.settlePort_asked _ hhalts.inReach q).trans (hhalts.asked q)
    refine ⟨_, hexec, rfl, congrArg EngineControl.state hengine,
      (congrArg EngineControl.haltedFrom hengine).trans (congrArg some hrunning),
      congrArg EngineControl.firstCause hengine, congrArg EngineControl.further hengine, ?_, ?_, ?_, ?_, ?_,
      hasked .composer, hasked .engine⟩
    · exact (congrArg EngineControl.capture hengine).trans (congrArg some (Chip.captureOf_running hrunning _ _))
    · exact (congrArg (EngineControl.isPending .halt) hengine).trans (EngineControl.raise_isPending _ _)
    · exact (congrArg JobController.held hjob).trans (JobController.suspend_held _)
    · exact (congrArg JobController.activity hjob).trans rfl
    · refine (hasked .job).trans ?_
      show ((s.chip.served .job rest).port.asked .job).filter (fun a => !a.purpose.endsAtHalt) = _
      rw [Chip.served_asked_same]
  · rw [hv] at hexec
    have hlink := Chip.linkRead_zero (c := s.chip.served .job rest) hrunning hactivity
    have hin : ((s.chip.served .job rest).linkRead 0).portInReach = true := by
      rw [hlink]
      exact hinServed
    have hasked := Chip.settlePort_port_asked _ hin
    intro raises
    refine ⟨((s.chip.served .job rest).linkRead 0).settlePort.port, ?_, ?_, ?_, ?_⟩
    · show execBurstComplete ws s = _
      rw [hexec, Chip.settlePort_inReach _ hin, hlink]
      rfl
    · rw [hasked, hlink]
      exact Chip.served_asked_same .job rest s.chip
    · rw [hasked, hlink]
      exact Chip.served_asked_other (q := .job) (by decide) rest s.chip
    · rw [hasked, hlink]
      exact Chip.served_asked_other (q := .job) (by decide) rest s.chip

end Sys2Proof.Machine
end

section
/-! The causes that halt the engine: a bus error on a source read (R20), the second low supply code (R166) and an open
head (R160). -/

namespace Sys2Proof.Machine

open Sys2Proof

/-! ### A bus error -/

theorem EngineControl.issued_issued (e : EngineControl) (a : Access) : e.issued (e.issued a) = e.issued a := by
  simp only [EngineControl.issued]
  split <;> rfl

/-- The only access that a requester has asked for is issued as the engine stands, or waits still (R18). -/
theorem Chip.issueAccesses_queue_only (n : Nat) {c : Chip} (h : c.portInReach = true) {q : Requester} {a : Access}
    (hq : c.port.queue q = [a]) :
    (c.issueAccesses n).port.queue q = [a] ∨ (c.issueAccesses n).port.queue q = [c.engine.issued a] := by
  induction n generalizing c a with
  | zero => exact Or.inl hq
  | succ n ih =>
    cases hu : c.port.unissued with
    | none => exact Or.inl (by simpa only [Chip.issueAccesses, hu] using hq)
    | some next =>
      obtain ⟨r, b⟩ := next
      obtain ⟨hwaits, rest, hr⟩ := MemoryPort.unissued_mem hu
      have hreach := (Chip.portInReach_iff c).1 h r b (by rw [hr]; exact List.mem_cons_self)
      have hadd : ¬ Config.memoryReach < (c.engine.issued b).addr + (c.engine.issued b).length := by
        simp only [EngineControl.reaches, hwaits, Bool.false_or, decide_eq_true_eq] at hreach
        simp only [EngineControl.issued]
        omega
      have hstep : c.issueAccesses (n + 1)
          = ({ c with port := c.port.setQueue r (c.engine.issued b :: rest) } : Chip).issueAccesses n := by
        simp only [Chip.issueAccesses, hu, if_neg hadd, hr]
        rfl
      have hin : ({ c with port := c.port.setQueue r (c.engine.issued b :: rest) } : Chip).portInReach = true := by
        rw [Chip.portInReach_iff] at h ⊢
        intro k x hx
        by_cases hk : k = r
        · subst hk
          rw [MemoryPort.queue_setQueue] at hx
          cases hx with
          | head => rfl
          | tail _ hmem => exact h k x (by rw [hr]; exact List.mem_cons_of_mem _ hmem)
        · rw [MemoryPort.queue_setQueue_ne _ _ _ _ hk] at hx
          exact h k x hx
      rw [hstep]
      by_cases hk : q = r
      · subst hk
        obtain ⟨rfl, rfl⟩ : a = b ∧ rest = [] := by simpa [hq, eq_comm] using hr
        have hissued := ih hin (a := c.engine.issued a) (MemoryPort.queue_setQueue _ _ _)
        exact Or.inr (hissued.elim id fun hagain => hagain.trans (by rw [EngineControl.issued_issued]))
      · exact ih hin (by rwa [MemoryPort.queue_setQueue_ne _ _ _ _ hk])

theorem MemoryPort.issued_of_unissued {p : MemoryPort} (h : p.unissued = none) {q : Requester} {a : Access}
    (hq : p.queue q = [a]) : a.issued = true := by
  have hnone := List.findSome?_eq_none_iff.1 h q (by cases q <;> decide)
  simpa [hq] using hnone

/-- The only access that a requester has asked for is issued at the end of the step (R18, log entry 22). -/
theorem Chip.settlePort_queue_only {c : Chip} (h : c.portInReach = true) {q : Requester} {a : Access}
    (hq : c.port.queue q = [a]) (hwaits : a.issued = false) : c.settlePort.port.queue q = [c.engine.issued a] := by
  have hqueue : c.settlePort.port.queue q = (c.issueAccesses c.issueWork).port.queue q := MemoryPort.carry_queue _ _ _
  rw [hqueue]
  refine (Chip.issueAccesses_queue_only c.issueWork h hq).elim (fun hstill => ?_) id
  have hissued := MemoryPort.issued_of_unissued (Chip.issueAccesses_drains _ c (Nat.le_refl _)) hstill
  exact absurd (hissued.symm.trans hwaits) Bool.true_eq_false.mp

/-- With nothing asked for by Engine Control and no test in hand, a halt leaves its record alone asked for (R178). -/
theorem Chip.reportFault_engineQueue {c : Chip} (hs : c.engine.state = .running) (hf : c.engine.firstCause = none)
    (hqueue : c.port.engineQueue = []) (htest : c.protection.test = .idle) (k : Cause) (ticket : Word) :
    (c.reportFault k ticket).port.queue .engine = [recordAccess .faultRecord] := by
  have hidle : (c.withCause k ticket).testInHand = false := by simp [Chip.testInHand, Chip.withCause, htest]
  have hempty : (c.withCause k ticket).enterHalted.port.engineQueue = [] := by
    refine ((c.withCause k ticket).enterHalted_engineQueue).trans ?_
    rw [hidle]
    show c.port.engineQueue.filter _ ++ _ = _
    rw [hqueue]
    rfl
  rw [Chip.reportFault_first hs hf, Chip.wantFaultRecord, hempty, if_neg (by simp)]
  show (c.withCause k ticket).enterHalted.port.engineQueue ++ _ = _
  rw [hempty]
  rfl

/-- A Fault Record write is issued in the control area, with the bytes of the set as it stands (R178, R179). -/
theorem EngineControl.issued_record (e : EngineControl) {p : Purpose} (h : p.isRecord = true) :
    e.issued (recordAccess p)
      = { recordAccess p with issued := true, addr := e.areaBase + 0x010, data := e.recordBytes } := by
  rw [EngineControl.issued, show (recordAccess p).purpose.isRecord = true from h]
  rfl

/-- Settles O25: the engine halts, and its record, alone asked for, is issued at once. -/
theorem busErrorOnSourceReadHalts : Obligations.BusErrorOnSourceReadHalts := by
  intro s ws b hr hwait hb hq hp hread hd hrunning hfirst hreach harea capture
  have hqueue : ∃ rest, s.chip.burstFailed b = (s.chip.served .composer rest).reportFault .memoryFault
      s.chip.job.currentAddress ∧ ∀ a ∈ rest, a ∈ s.chip.port.queue .composer := by
    refine ⟨(s.chip.port.queue .composer).tail, ?_, fun a ha => List.mem_of_mem_tail ha⟩
    rw [Chip.burstFailed, hd, hp, hq]
    rfl
  obtain ⟨rest, hfailed, hrest⟩ := hqueue
  have hinServed : (s.chip.served .composer rest).portInReach = true := by
    refine Chip.portInReach_sublist hreach (fun q a ha => ?_) rfl
    cases q with
    | composer => exact hrest a ha
    | job => exact ha
    | engine => exact ha
  have hhalts := Chip.reportFault_halts (c := s.chip.served .composer rest) hrunning hfirst hinServed harea .memoryFault
    s.chip.job.currentAddress
  rw [← hfailed] at hhalts
  have hengine := (Chip.settlePort_engine _ hhalts.inReach).trans hhalts.engine
  have hasked := fun q => (Chip.settlePort_asked _ hhalts.inReach q).trans (hhalts.asked q)
  refine ⟨_, (execBusError_read hr hb ws hread).trans (congrArg _ (State.afterBurst_goesOn hwait _ _ _)), rfl, rfl,
    congrArg EngineControl.state hengine, (congrArg EngineControl.haltedFrom hengine).trans (congrArg some hrunning),
    congrArg EngineControl.firstCause hengine, congrArg EngineControl.further hengine, ?_, ?_, ?_, ?_, ?_,
    hasked .composer, hasked .engine, ?_⟩
  · exact (congrArg EngineControl.capture hengine).trans (congrArg some (Chip.captureOf_running hrunning _ _))
  · exact (congrArg (EngineControl.isPending .halt) hengine).trans (EngineControl.raise_isPending _ _)
  · exact (Chip.settlePort_composer _ hhalts.inReach).trans hhalts.composer
  · exact (congrArg JobController.current ((Chip.settlePort_job _ hhalts.inReach).trans hhalts.job)).trans
      (JobController.suspend_current _)
  · exact hasked .job
  · intro hempty htest
    have honly : (s.chip.burstFailed b).port.queue .engine = [recordAccess .faultRecord] := by
      rw [hfailed]
      exact Chip.reportFault_engineQueue (c := s.chip.served .composer rest) hrunning hfirst hempty htest _ _
    refine (Chip.settlePort_queue_only hhalts.inReach honly rfl).trans ?_
    have hcapture : (s.chip.burstFailed b).engine.capture = some capture :=
      (congrArg EngineControl.capture hhalts.engine).trans (congrArg some (Chip.captureOf_running hrunning _ _))
    have hdata : (s.chip.burstFailed b).engine.recordBytes = faultRecordBytes capture 0 := by
      rw [EngineControl.recordBytes, hcapture,
        show _ = (0 : BitVec 8) from congrArg EngineControl.further hhalts.engine]
    have haddr : (s.chip.burstFailed b).engine.areaBase = s.chip.engine.areaInUse.toNat := by
      rw [hhalts.engine]
      rfl
    rw [EngineControl.issued_record _ rfl, hdata, haddr]
    rfl

/-! ### The end of a conversion -/

theorem Chip.startPulse_eq (c : Chip) : c.startPulse = { c with
    protection := { c.protection with test := c.startPulse.protection.test } } := by
  unfold Chip.startPulse
  split
  · split <;> rfl
  · rfl

theorem SensorScanner.chooseNext_eq (now : Nat) (s : SensorScanner) : s.chooseNext now = { s with
    waiting := (s.chooseNext now).waiting, converter := (s.chooseNext now).converter } := by
  unfold SensorScanner.chooseNext
  split <;> rfl

/-- The part as a completed code is handed on (R150). -/
def Chip.coded (code : Code) (c : Chip) : Chip :=
  { c with
    now := max c.now (c.scanner.doneAt c.now)
    scanner := c.scanner.takeCode c.scanner.inFlight code }

/-- The next conversion follows what the code led to (R149 to R151): a converter and the requests that wait are of the
Sensor Scanner alone, and a pulse that starts is of the dot test. -/
theorem Chip.conversionDone_eq (code : Code) (c : Chip) :
    let d := (c.coded code).handOn c.scanner.inFlight code
    ∃ test waiting converter, c.conversionDone code = { d with
      scanner := { d.scanner with waiting := waiting, converter := converter }
      protection := { d.protection with test := test } } := by
  intro d
  let next := d.scanner.chooseNext d.now
  let test := ({ d with scanner := next } : Chip).startPulse.protection.test
  exact ⟨test, next.waiting, next.converter, (Chip.startPulse_eq { d with scanner := next }).trans (congrArg
    (fun s => ({ d with scanner := s, protection := { d.protection with test := test } } : Chip))
    (SensorScanner.chooseNext_eq d.now d.scanner))⟩

theorem Chip.watches_running {c : Chip} (h : c.engine.state = .running) : c.watches = true := by
  simp [Chip.watches, h]

/-- The second low code in a row trips (R166). -/
theorem Chip.judgeSupply_low {c : Chip} {l : ProtectionLimits} {code : Code} (hs : c.engine.state = .running)
    (hl : c.protection.limits = some l) (hon : c.protection.supply = .on) (hrun : c.protection.lowRun = 1)
    (hlow : code.toNat < l.supplyLow) :
    c.judgeSupply code = ({ c with protection := { c.protection with lowRun := 2 } } : Chip).trip .supplyLow := by
  have hwatches : ({ c with protection := { c.protection with lowRun := 2 } } : Chip).watches = true :=
    Chip.watches_running hs
  simp only [Chip.judgeSupply, hl, hon, if_pos hlow, hrun]
  exact if_pos ⟨hwatches, Nat.le_refl 2⟩

/-- Settles O49: the second low code trips, and the trip halts. -/
theorem secondLowSupplyCodeTrips : Obligations.SecondLowSupplyCodeTrips := by
  intro s code at0 l hr hconv hl hon hrun hlow hrunning hfirst hreach harea
  have hwhat : s.chip.scanner.inFlight = .supply := by simp only [SensorScanner.inFlight, hconv]
  let c := { (s.chip.coded code) with protection := { s.chip.protection with lowRun := 2 } }
  have hin : c.portInReach = true := Chip.portInReach_of_port s.chip _ hreach rfl rfl
  have h : c.TripsAs .supplyLow (c.trip .supplyLow) := Chip.trip_halts (c := c) hrunning hfirst hin harea _
  have hcode : (s.chip.coded code).scanner.supply = code := by
    rw [Chip.coded, hwhat]
    rfl
  have hhanded : (s.chip.coded code).handOn s.chip.scanner.inFlight code = c.trip .supplyLow := by
    rw [hwhat]
    exact Chip.judgeSupply_low (c := s.chip.coded code) hrunning hl hon hrun hlow
  obtain ⟨test, waiting, converter, hdone⟩ := Chip.conversionDone_eq code s.chip
  rw [hhanded] at hdone
  have hinDone : (s.chip.conversionDone code).portInReach = true := by
    rw [hdone]
    exact Chip.portInReach_of_port _ _ h.inReach rfl rfl
  obtain ⟨p, hexec, hasked⟩ := State.event_asked (f := Chip.conversionDone code) hr rfl hinDone
  rw [hdone] at hexec hasked
  have hall := fun q => (hasked q).trans (h.asked q)
  obtain ⟨hoff, hgate, hlowRun⟩ := h.supply
  obtain ⟨hplan, hregister⟩ := h.burn
  refine ⟨_, hexec, h.state.1, h.state.2, h.cause.1, h.cause.2, h.tripLatch, hoff, hgate, hlowRun, ?_, ?_, ?_, ?_, hplan,
    hregister, rfl, hall .job, hall .composer, hall .engine⟩
  · exact (congrArg MotionController.state h.motion).trans rfl
  · exact (congrArg MotionController.operation h.motion).trans rfl
  · exact (congrArg MotionController.position h.motion).trans rfl
  · exact h.supplyCode.trans hcode

/-! ### HEAD_CLOSED -/

/-- The part once HEAD_CLOSED has held its raw level for its debounce time (R160). -/
def Chip.debouncedHead (c : Chip) : Chip :=
  { c with
    now := max c.now (c.scanner.headClosed.since + 5000)
    scanner := { c.scanner with headClosed := { c.scanner.headClosed with debounced := c.scanner.headClosed.raw } } }

theorem Chip.headChanged_opens {c : Chip} (hs : c.engine.state = .running) (hraw : c.scanner.headClosed.raw = false) :
    c.headChanged = c.debouncedHead.trip .headOpen :=
  if_pos ⟨hraw, Chip.watches_running (c := c.debouncedHead) hs⟩

theorem Chip.headChanged_closes {c : Chip} (hraw : c.scanner.headClosed.raw = true) :
    c.headChanged = c.debouncedHead.examineSupply :=
  if_neg fun h => Bool.noConfusion (hraw.symm.trans h.1)

theorem Chip.debouncedHead_inReach {c : Chip} (h : c.portInReach = true) : c.debouncedHead.portInReach = true :=
  Chip.portInReach_of_port c _ h rfl rfl

/-- Settles O55: an open head trips; a closed one lets the supply settle. -/
theorem headSwitchTripsAndSettles : Obligations.HeadSwitchTripsAndSettles := by
  refine ⟨fun s at0 hr hs => ⟨_, ?_, rfl, rfl⟩, fun s hr hrunning hreach harea => ⟨?_, ?_⟩⟩
  · show execSupplySettled s = _
    simp only [execSupplySettled, hs]
    exact State.inside_occurs hr rfl
  · intro hclosed hraw hfirst
    have hdue : s.chip.scanner.headClosed.due = true := by simp [SwitchInput.due, hclosed, hraw]
    have h : s.chip.debouncedHead.TripsAs .headOpen (s.chip.debouncedHead.trip .headOpen) :=
      Chip.trip_halts (c := s.chip.debouncedHead) hrunning hfirst (Chip.debouncedHead_inReach hreach) harea _
    have hchanged := Chip.headChanged_opens hrunning hraw
    obtain ⟨p, hexec, hasked⟩ := State.event_asked (f := Chip.headChanged) hr hdue (by rw [hchanged]; exact h.inReach)
    rw [hchanged] at hexec hasked
    have hall := fun q => (hasked q).trans (h.asked q)
    obtain ⟨hoff, hgate, -⟩ := h.supply
    refine ⟨_, hexec, ?_, h.state.1, h.cause.1, h.cause.2, h.tripLatch, hoff, hgate, h.burn.1, ?_, ?_, ?_, ?_,
      hall .job, hall .composer, hall .engine⟩
    · exact (congrArg SwitchInput.debounced h.headClosed).trans hraw
    · exact (congrArg MotionController.state h.motion).trans rfl
    · simp only [Chip.motorPhases, hgate]
    · exact (congrArg MotionController.phase h.motion).trans rfl
    · exact (congrArg Composer.state h.composer).trans rfl
  · intro hopen hraw hlatch hoff now
    have hdue : s.chip.scanner.headClosed.due = true := by simp [SwitchInput.due, hopen, hraw]
    have hwanted : s.chip.debouncedHead.supplyWanted = true := by
      simp [Chip.supplyWanted, Chip.debouncedHead, hrunning, hraw, hlatch]
    have hchanged := (Chip.headChanged_closes hraw).trans (Chip.examineSupply_settles (c := s.chip.debouncedHead)
      hwanted hoff)
    have hin : s.chip.headChanged.portInReach = true := by
      rw [hchanged]
      exact Chip.portInReach_of_port _ _ (Chip.debouncedHead_inReach hreach) rfl rfl
    obtain ⟨p, hexec, hasked⟩ := State.event_asked (f := Chip.headChanged) hr hdue hin
    rw [hchanged] at hexec hasked
    refine ⟨p, ?_, hasked⟩
    rw [← hraw]
    exact hexec

end Sys2Proof.Machine
end

section
/-! Forward steps (R131) and conversions (R150): a line feed's step, a THERM code, a top edge, and the last dot of a
dot test. -/

namespace Sys2Proof.Machine

open Sys2Proof

/-! ### A line feed's step -/

/-- A request displaces an idle conversion (R152). -/
theorem SensorScanner.request_therm {sc : SensorScanner} {d : Nat} (h : sc.converter = .converting .therm d)
    (now : Nat) (r : Request) :
    sc.request now r = { sc with converter := .converting r.conversion (now + 10) } := by
  have hflight : sc.inFlight = .therm := by simp only [SensorScanner.inFlight, h]
  simp only [SensorScanner.request, hflight]
  rfl

theorem Chip.progress_lineFeed {c : Chip} {left : Nat} (h : c.motion.operation = .lineFeed left) (hleft : 2 ≤ left) :
    c.progress = { c with motion := { c.motion with operation := .lineFeed (left - 1) } } := by
  simp only [Chip.progress, h, if_neg (show ¬ left ≤ 1 by omega)]

theorem MotionController.stepForward_still {m : MotionController} (h : m.state = .still) (now level : Nat) :
    m.stepForward now level = { m with
      state := .forward, phase := m.phase + 1, position := m.position + 1, speedStep := 0, rampCount := 0
      timer := .running (m.periodOf 0) (now + m.periodOf 0) } := by
  simp only [MotionController.stepForward, if_pos (show m.state = .still ∨ m.state = .dwell from Or.inl h)]
  rfl

theorem MotionController.nextIsLine_lineFeed {m : MotionController} {left : Nat} (h : m.operation = .lineFeed left) :
    m.nextIsLine = false := by
  simp only [MotionController.nextIsLine, h]

/-- The step of a line feed from STILL that is not its last (R131, R143). -/
theorem Chip.forwardStep_lineFeed {c : Chip} {left d : Nat} (h : c.motion.operation = .lineFeed left)
    (hleft : 2 ≤ left) (hs : c.motion.state = .still) (hconv : c.scanner.converter = .converting .therm d) :
    c.forwardStep = { c with
      motion := { c.motion with
        state := .forward, phase := c.motion.phase + 1, position := c.motion.position + 1
        speedStep := 0, rampCount := 0
        timer := .running (c.motion.periodOf 0) (c.now + c.motion.periodOf 0), operation := .lineFeed (left - 1) }
      scanner := { c.scanner with
        converter := .converting (.media (c.motion.position + 1) false) (c.now + 10) } } := by
  have hmarks : c.motion.operation.marks = false := by rw [h]; rfl
  simp only [Chip.forwardStep, MotionController.nextIsLine_lineFeed h, MotionController.stepForward_still hs,
    SensorScanner.request_therm hconv, hmarks, Bool.false_eq_true, if_false]
  exact Chip.progress_lineFeed (c := { c with motion := _, scanner := _ }) h hleft

/-- Settles O45: a line feed is no line step, so only its step is left. -/
theorem lineFeedStepsOnFromStill : Obligations.LineFeedStepsOnFromStill := by
  intro s left d hr hop hleft hs hplan hgate hconv hreach period
  have hstep := Chip.forwardStep_lineFeed hop hleft hs hconv
  have hmay : s.chip.mayStep = true := by
    simp [Chip.mayStep, hop, Operation.wantsForward, show 0 < left by omega, MotionController.timerAllows, hs, hplan,
      hgate, MotionController.nextIsLine_lineFeed hop]
  have hin : s.chip.forwardStep.portInReach = true := by
    rw [hstep]
    exact Chip.portInReach_of_port s.chip _ hreach rfl rfl
  obtain ⟨p, hexec, hasked⟩ := State.event_asked (f := Chip.forwardStep) hr hmay hin
  rw [hstep] at hexec hasked
  exact ⟨p, hexec, hasked⟩

/-! ### A THERM code -/

theorem Chip.judgeThermal_eq (l : ProtectionLimits) (code : Code) (c : Chip) :
    let enters := c.protection.thermal = .normal ∧ l.hold ≤ code.toNat
    let leaves := c.protection.thermal = .hold ∧ code.toNat ≤ l.resume
    c.judgeThermal l code = { c with
      protection := { c.protection with
        thermal := if enters then .hold else if leaves then .normal else c.protection.thermal }
      engine := { c.engine with
        pendingBits := if enters then c.engine.pendingBits ||| 0x10#7 else c.engine.pendingBits } } := by
  intro enters leaves
  unfold Chip.judgeThermal
  split
  · next h =>
    by_cases hhold : l.hold ≤ code.toNat
    · have henters : enters := ⟨h, hhold⟩
      rw [if_pos hhold, if_pos henters, if_pos henters]
      rfl
    · have henters : ¬ enters := fun he => hhold he.2
      have hleaves : ¬ leaves := fun hl => ThermalState.noConfusion (h.symm.trans hl.1)
      rw [if_neg hhold, if_neg henters, if_neg henters, if_neg hleaves]
  · next h =>
    have henters : ¬ enters := fun he => ThermalState.noConfusion (h.symm.trans he.1)
    by_cases hresume : code.toNat ≤ l.resume
    · have hleaves : leaves := ⟨h, hresume⟩
      rw [if_pos hresume, if_neg henters, if_neg henters, if_pos hleaves]
    · have hleaves : ¬ leaves := fun hl => hresume hl.2
      rw [if_neg hresume, if_neg henters, if_neg henters, if_neg hleaves]

theorem Chip.judgeTherm_below {c : Chip} {l : ProtectionLimits} {code : Code} (hl : c.protection.limits = some l)
    (hlow : code.toNat < l.trip) : c.judgeTherm code = c.judgeThermal l code := by
  simp only [Chip.judgeTherm, hl]
  exact if_neg fun h => absurd h.2 (Nat.not_le.2 hlow)

/-- No pulse starts with a conversion other than CURRENT (R171). -/
theorem Chip.startPulse_other {c : Chip} (h : c.scanner.inFlight ≠ .current) : c.startPulse = c := by
  unfold Chip.startPulse
  split
  · split
    · next hflight => exact absurd hflight h
    · rfl
  · rfl

theorem Rotating.conversion_ne_current (r : Rotating) : r.conversion ≠ .current := by
  cases r <;> exact Conversion.noConfusion

/-- With no request waiting the rotation goes on (R151). -/
theorem SensorScanner.chooseNext_rotates {sc : SensorScanner} (h : sc.waiting = []) (now : Nat) :
    sc.chooseNext now = { sc with converter := .converting sc.rotation.conversion (now + 10) } := by
  unfold SensorScanner.chooseNext
  split
  · next hw => exact nomatch h.symm.trans hw
  · rfl

theorem Chip.conversionDone_rotates {c d : Chip} {code : Code}
    (hd : (c.coded code).handOn c.scanner.inFlight code = d) (hw : d.scanner.waiting = []) :
    c.conversionDone code = { d with
      scanner := { d.scanner with converter := .converting d.scanner.rotation.conversion (d.now + 10) } } := by
  have hdone : c.conversionDone code = ({ d with scanner := d.scanner.chooseNext d.now } : Chip).startPulse := by
    rw [← hd]
    rfl
  rw [hdone, SensorScanner.chooseNext_rotates hw, Chip.startPulse_other]
  exact Rotating.conversion_ne_current _

theorem SensorScanner.doneAt_converting {sc : SensorScanner} {what : Conversion} {d : Nat}
    (h : sc.converter = .converting what d) (now : Nat) : sc.doneAt now = d := by
  simp only [SensorScanner.doneAt, h]

/-- Settles O48: a code below Trip Limit judges the thermal state alone, and the rotation goes on. -/
theorem thermCodeJudgesHold : Obligations.ThermCodeJudgesHold := by
  intro s code d l hr hconv hwaiting hl hlow hreach at0 enters leaves
  have hwhat : s.chip.scanner.inFlight = .therm := by simp only [SensorScanner.inFlight, hconv]
  let c : Chip := { s.chip with now := at0, scanner := { s.chip.scanner with therm := code, rotation := .supply } }
  have hhanded : (s.chip.coded code).handOn s.chip.scanner.inFlight code = c.judgeTherm code := by
    rw [Chip.coded, hwhat, SensorScanner.doneAt_converting hconv]
    rfl
  have hjudged := (Chip.judgeTherm_below (c := c) hl hlow).trans (Chip.judgeThermal_eq l code c)
  have hdone := Chip.conversionDone_rotates (hhanded.trans hjudged) hwaiting
  have hin : (s.chip.conversionDone code).portInReach = true := by
    rw [hdone]
    exact Chip.portInReach_of_port s.chip _ hreach rfl rfl
  obtain ⟨p, hexec, hasked⟩ := State.event_asked (f := Chip.conversionDone code) hr rfl hin
  rw [hdone] at hexec hasked
  exact ⟨p, hexec, hasked⟩

/-! ### A top edge -/

/-- A sample on the candidate's side confirms LABEL after GAP: a top edge at the candidate's position (R155). -/
theorem SensorScanner.classify_edge {sc : SensorScanner} {value : Nat} {at0 : Position} (hg : sc.mediaState = .gap)
    (hc : sc.candidate = some (.label, at0)) (hside : sc.sideOf value = some .label) (position : Position) :
    sc.classify value position = ({ sc with mediaState := .label, candidate := none }, some at0) := by
  simp only [SensorScanner.classify, hc, hside, hg, if_true, and_self]
  rfl

theorem Chip.keepsPitch_idle {c : Chip} (h : c.motion.operation = .none) :
    c.keepsPitch = true ↔ c.job.jobState ≠ .calibrating := by
  cases hj : c.job.jobState <;> simp [Chip.keepsPitch, hj, h]

theorem Chip.edgeQueued_idle {c : Chip} (h : c.motion.operation = .none) (e : Position) (pitch : Nat) :
    c.edgeQueued e pitch = c := by
  simp only [Chip.edgeQueued, h]

theorem Chip.clearSearch_idle {c : Chip} (h : c.motion.operation = .none) : c.clearSearch = c := by
  simp only [Chip.clearSearch, h]

/-- An accepted edge with room in the queue, while Motion has no operation in hand (R136). -/
theorem Chip.topEdge_joins {c : Chip} {e edge : Position} (hl : c.motion.lastEdge = some edge)
    (ha : isAfter e (edge + 2) = true) (hroom : c.motion.edgeQueue.length < 8) (hop : c.motion.operation = .none) :
    c.topEdge e = { c with
      motion := { c.motion with
        edgeQueue := c.motion.edgeQueue ++ [e], lastEdge := some e, measuredPitch := min 65535 (e - edge).toNat }
      job := { c.job with result :=
        if c.job.current = none ∨ c.job.jobState = .calibrating then c.job.result
        else { c.job.result with measuredPitch := min 65535 (e - edge).toNat } } } := by
  have hkeeps : ∀ pitch : Nat, (if c.job.current = none then c.job.result
      else if c.keepsPitch then { c.job.result with measuredPitch := pitch } else c.job.result)
      = if c.job.current = none ∨ c.job.jobState = .calibrating then c.job.result
        else { c.job.result with measuredPitch := pitch } := by
    intro pitch
    by_cases hcal : c.job.jobState = .calibrating
    · simp [hcal, Chip.keepsPitch_idle hop]
    · simp [hcal, (Chip.keepsPitch_idle hop).2 hcal]
  rw [← hkeeps, Chip.topEdge, hl]
  simp only [ha, Bool.not_true, Bool.false_eq_true, if_false, Chip.report_eq]
  refine (if_pos hroom).trans ?_
  rw [Chip.edgeQueued_idle, Chip.clearSearch_idle]
  · rfl
  · exact hop
  · exact hop

theorem Chip.settleMotion_running {c : Chip} (h : c.motion.timer ≠ .expired) : c.settleMotion = c := by
  rw [Chip.settleMotion, MotionController.settle_running h]
  exact if_neg fun hdwell => h hdwell.2.1

theorem Chip.countGap_label (c : Chip) : c.countGap .label = { c with motion := { c.motion with gapRun := 0 } } := by
  simp [Chip.countGap]

theorem Chip.sampleReport_edge {c : Chip} {e edge : Position} (hl : c.motion.lastEdge = some edge)
    (ha : isAfter e (edge + 2) = true) (hroom : c.motion.edgeQueue.length < 8) (hop : c.motion.operation = .none)
    (htimer : c.motion.timer ≠ .expired) :
    c.sampleReport .label (some e) = { c with
      motion := { c.motion with
        edgeQueue := c.motion.edgeQueue ++ [e], lastEdge := some e, measuredPitch := min 65535 (e - edge).toNat
        gapRun := 0 }
      job := { c.job with result :=
        if c.job.current = none ∨ c.job.jobState = .calibrating then c.job.result
        else { c.job.result with measuredPitch := min 65535 (e - edge).toNat } } } := by
  show ((c.topEdge e).settleMotion).countGap .label = _
  rw [Chip.topEdge_joins hl ha hroom hop, Chip.settleMotion_running, Chip.countGap_label]
  exact htimer

/-- Settles O51: the sample confirms a top edge, and the rotation goes on. -/
theorem topEdgeJoinsQueue : Obligations.TopEdgeJoinsQueue := by
  intro s code d position at0 edge hr hconv hwaiting hgap hcandidate hside hlast hafter hroom hop htimer hreach pitch now
  have hwhat : s.chip.scanner.inFlight = .media position false := by simp only [SensorScanner.inFlight, hconv]
  let c : Chip := { s.chip with
    now := now, scanner := { s.chip.scanner with media := code, mediaState := .label, candidate := none } }
  have hhanded : (s.chip.coded code).handOn s.chip.scanner.inFlight code = c.sampleReport .label (some at0) := by
    rw [Chip.coded, hwhat, SensorScanner.doneAt_converting hconv]
    have hclassify := SensorScanner.classify_edge (sc := { s.chip.scanner with media := code }) hgap hcandidate hside
      position
    show Chip.mediaSample code position false _ = _
    exact congrArg (fun x : SensorScanner × Option Position =>
      ({ s.chip with now := now, scanner := x.1 } : Chip).sampleReport x.1.mediaState x.2) hclassify
  have hreported := Chip.sampleReport_edge (c := c) hlast hafter hroom hop (htimer ▸ PeriodTimer.noConfusion)
  have hdone := Chip.conversionDone_rotates (hhanded.trans hreported) hwaiting
  have hin : (s.chip.conversionDone code).portInReach = true := by
    rw [hdone]
    exact Chip.portInReach_of_port s.chip _ hreach rfl rfl
  obtain ⟨p, hexec, hasked⟩ := State.event_asked (f := Chip.conversionDone code) hr rfl hin
  rw [hdone] at hexec hasked
  exact ⟨p, hexec, hasked⟩

end Sys2Proof.Machine
end

section
/-! The last dot of a dot test (R172), and the lines of a print: their way from the Line Store through the register
(R108) to the end of their burn (R120). -/

namespace Sys2Proof.Machine

open Sys2Proof

/-! ### The end of a dot test -/

theorem countBelow_eq (row : Dots) (n : Nat) :
    countBelow row n = ((List.range n).filter fun k => hasDot row k).length := by
  induction n with
  | zero => rfl
  | succ n ih =>
    rw [countBelow, ih, List.range_succ, List.filter_append, List.length_append]
    cases h : row.getLsbD n <;> simp [hasDot, h]

theorem rowBytes_length (row : Dots) : (rowBytes row).length = 160 := by simp [rowBytes]

theorem Chip.examineSupply_stands {c : Chip} (hw : c.supplyWanted = true) (hon : c.protection.supply = .on) :
    c.examineSupply = c := by
  simp only [Chip.examineSupply, hw, if_true, hon]

/-- The code of the last dot lies within the limits: the test ends PASSED (R171, R172). -/
theorem Chip.judgeDot_last {p : TestProgress} {code : Code} (hdot : p.dot = 1279) (hmin : p.currentMin ≤ code.toNat)
    (hmax : code.toNat ≤ p.currentMax) (c : Chip) : c.judgeDot p code = c.testPassed p.newSet := by
  have hset : ¬ (code.toNat < p.currentMin ∨ p.currentMax < code.toNat) := by omega
  rw [Chip.judgeDot, if_pos (by omega), if_neg hset]

/-- With the head closed and the latch clear in RUNNING, the supply stays as it is at the end of a test (R162). -/
theorem Chip.testPassed_running {c : Chip} (hs : c.engine.state = .running)
    (hclosed : c.scanner.headClosed.debounced = true) (hlatch : c.protection.tripLatch = false)
    (hon : c.protection.supply = .on) (set : Dots) :
    c.testPassed set = ({ c with
      protection := { c.protection with badDots := set, test := .idle, report := .passed }
      burn := c.burn.returnLink c.now } : Chip).publish set := by
  rw [Chip.testPassed, Chip.examineSupply_stands]
  · simp [Chip.supplyWanted, hs, hclosed, hlatch]
  · exact hon

theorem BurnController.returnLink_empty {b : BurnController} (h : b.register = none) (now : Nat) :
    b.returnLink now = { b with link := .held, linkRequested := false } := by
  rw [BurnController.returnLink, h]

theorem Chip.publish_inReach {c : Chip} (h : c.portInReach = true) (ha : c.engine.areaInReach = true) (set : Dots) :
    (c.publish set).portInReach = true := by
  refine Chip.portInReach_ask _ _ _ (Chip.portInReach_ask _ _ _ (Chip.portInReach_ask _ _ _ h ?_) ?_) ?_
  · exact EngineControl.reaches_area_write ha _ _ _ (by rw [rowBytes_length])
  · exact EngineControl.reaches_area_write ha _ _ _ (by rw [leBytes_length]; omega)
  · exact EngineControl.reaches_area_write ha _ _ _ (by rw [leBytes_length]; omega)

theorem Chip.publish_asked_engine (c : Chip) (set : Dots) :
    (c.publish set).port.asked .engine = c.port.asked .engine
      ++ [writeAccess .publishMap (.area 0x1B0) (rowBytes set),
          writeAccess .publishCount (.area 0x008) (leBytes 2 (countDots set)),
          writeAccess .publishPassed (.area 0x00A) [1]] := by
  rw [Chip.publish, Chip.ask_asked_same, Chip.ask_asked_same, Chip.ask_asked_same,
    Access.request_write Purpose.publishMap _ _ rfl, Access.request_write Purpose.publishCount _ _ rfl,
    Access.request_write Purpose.publishPassed _ _ rfl, List.append_assoc, List.append_assoc]
  rfl

theorem Chip.publish_asked_other (c : Chip) (set : Dots) {q : Requester} (h : q ≠ .engine) :
    (c.publish set).port.asked q = c.port.asked q := by
  rw [Chip.publish, Chip.ask_asked_other _ _ _ _ h, Chip.ask_asked_other _ _ _ _ h, Chip.ask_asked_other _ _ _ _ h]

/-- Settles O57: the supply stands, so what is left is the publication. -/
theorem lastDotEndsTestPassed : Obligations.LastDotEndsTestPassed := by
  intro s p at0 code hr htest hstep hdot hmin hmax hrunning hclosed hlatch hon hregister hreach harea
  let c : Chip := { s.chip with
    now := max s.chip.now at0
    protection := { s.chip.protection with badDots := p.newSet, test := .idle, report := .passed }
    burn := { s.chip.burn with link := .held, linkRequested := false } }
  have hended : s.chip.pulseEnded p at0 (some code) = c.publish p.newSet := by
    show Chip.judgeDot p code (s.chip.advanceTo at0) = _
    rw [Chip.judgeDot_last hdot hmin hmax, Chip.testPassed_running, BurnController.returnLink_empty]
    · rfl
    · exact hregister
    · exact hrunning
    · exact hclosed
    · exact hlatch
    · exact hon
  have hin : (s.chip.pulseEnded p at0 (some code)).portInReach = true := by
    rw [hended]
    exact Chip.publish_inReach (c := c) (Chip.portInReach_of_port s.chip _ hreach rfl rfl) harea _
  obtain ⟨q, hexec, hasked⟩ := State.event_asked (f := Chip.pulseEnded p at0 (some code)) hr rfl hin
  rw [hended] at hexec hasked
  refine ⟨q, ?_, ?_, ?_, ?_⟩
  · show execTestPulseEnd s = _
    simp only [execTestPulseEnd, htest, hstep]
    exact hexec
  · rw [hasked, Chip.publish_asked_engine, countDots, countBelow_eq]
    rfl
  · rw [hasked, Chip.publish_asked_other _ _ (by decide)]
    rfl
  · rw [hasked, Chip.publish_asked_other _ _ (by decide)]
    rfl

/-! ### Lines of a print -/

theorem Chip.appendLine_more {r : LineRecord} (h : r.last = false) (c : Chip) :
    c.appendLine r = { c with composer := { c.composer with
      state := .composing, store := c.composer.store ++ [r], work := .ready, nextLine := r.line + 1 } } := by
  unfold Chip.appendLine
  exact if_neg (by rw [h]; exact Bool.false_ne_true)

/-- The oldest line enters the register, and a line held that is not LAST is then appended (R108, R67). -/
theorem Chip.takeLine_cons {c : Chip} {r : LineRecord} {store : List LineRecord}
    (hstore : c.composer.store = r :: store)
    (hlast : ∀ line, c.composer.work = .hold line → line.last = false) :
    c.takeLine = { c with
      burn := { c.burn with register := some (r, .shifting (c.now + 32)) }
      composer := match c.composer.work with
        | .hold line =>
          { c.composer with state := .composing, store := store ++ [line], work := .ready, nextLine := line.line + 1 }
        | _ => { c.composer with store := store } } := by
  simp only [Chip.takeLine, hstore]
  cases hwork : c.composer.work with
  | hold line =>
    simp only [Chip.appendLine_more (hlast line hwork)]
    rfl
  | _ => rfl

/-- Settles O36, by the composer's work in hand. -/
theorem lineTakeMovesOldestLine : Obligations.LineTakeMovesOldestLine := by
  intro s r store hr hregister hlink hstore hreach hlast
  have htake := Chip.takeLine_cons hstore hlast
  have hmay : s.chip.mayTakeLine = true := by simp [Chip.mayTakeLine, hregister, hlink, hstore]
  have hin : s.chip.takeLine.portInReach = true := by
    rw [htake]
    exact Chip.portInReach_of_port s.chip _ hreach rfl rfl
  obtain ⟨p, hexec, hasked⟩ := State.event_asked (f := Chip.takeLine) hr hmay hin
  rw [htake] at hexec hasked
  exact ⟨p, hexec, hasked⟩

/-- The part once the burn of its latched line has ended (R120). -/
def Chip.burned (r : LineRecord) (c : Chip) : Chip :=
  { c with burn := { c.burn with plan := none, rowBefore := c.burn.previousRow, previousRow := r.dots } }

theorem Chip.finish_latched {c : Chip} {r : LineRecord} (h : c.burn.latched = some r) :
    ({ c with burn := c.burn.finish } : Chip) = c.burned r := by
  unfold BurnController.finish
  split
  · next hnone => exact nomatch h.symm.trans hnone
  · next r' hr' =>
    obtain rfl : r = r' := Option.some.inj (h.symm.trans hr')
    rfl

theorem Chip.checkDwell_loaded {c : Chip} (h : c.burn.register ≠ none) : c.checkDwell = c :=
  if_neg fun hdwell => h hdwell.2.2.2.2.2.1

theorem Chip.checkDwell_idle {c : Chip} (h : c.motion.operation = .none) : c.checkDwell = c := by
  have hline : c.motion.nextIsLine = false := by simp only [MotionController.nextIsLine, h]
  exact if_neg fun hdwell => Bool.noConfusion (hline.symm.trans hdwell.2.2.1)

/-- A burn that leads to no dwell ends, and a LAST line completes its copy (R120). -/
theorem Chip.endBurn_latched {c : Chip} {r : LineRecord} (h : c.burn.latched = some r)
    (hdwell : (c.burned r).checkDwell = c.burned r) :
    c.endBurn = if r.last then (c.burned r).copyComplete c.burn.signature else c.burned r := by
  rw [Chip.endBurn, Chip.finish_latched h, hdwell, h]

/-- BURN_END takes the part to the end of every phase of its burn (R118; log entry 11). -/
theorem execBurnEnd_ends {s : State} {plan : BurnPlan} {d : Chip} (hr : s.resetPin = false)
    (hplan : s.chip.burn.plan = some plan) (hd : (s.chip.advanceTo plan.burnEnd).endBurn = d)
    (hin : d.portInReach = true) :
    ∃ p, execBurnEnd s = .next { s with chip := { d with port := p } } ∧ ∀ k, p.asked k = d.port.asked k := by
  subst hd
  simp only [execBurnEnd, hplan]
  exact State.event_asked (f := fun c => (c.advanceTo plan.burnEnd).endBurn) hr rfl hin

/-- Settles O38: a line in the register keeps Motion from its dwell. -/
theorem burnEndMovesHistory : Obligations.BurnEndMovesHistory := by
  intro s plan r hr hplan hlatched hlast hregister hreach
  have hended := Chip.endBurn_latched (c := s.chip.advanceTo plan.burnEnd) hlatched (Chip.checkDwell_loaded hregister)
  rw [hlast, if_neg Bool.false_ne_true] at hended
  exact execBurnEnd_ends hr hplan hended (Chip.portInReach_of_port s.chip _ hreach rfl rfl)

/-- Nothing follows a copy that is presented in no way (R34). -/
theorem Chip.afterCopy_none {c : Chip} (hs : c.engine.state ≠ .stopping) (hp : c.motion.values.presentation = .none)
    (ended : Bool) : c.afterCopy ended = c.settleJobState := by
  rw [Chip.afterCopy, if_neg hs, hp]

/-- A copy completes in RUNNING with copies left and nothing to present: READY, with the next copy in hand (R33,
R34). -/
theorem Chip.copyComplete_more {c : Chip} {t : Ticket} (ht : c.job.current = some t)
    (hmore : c.job.result.copiesCompleted + 1 ≠ t.copies) (hs : c.engine.state = .running)
    (hp : c.motion.values.presentation = .none) (signature : Nat) :
    c.copyComplete signature = { c with job := { c.job with
      jobState := .ready, copyInHand := c.job.copyInHand + 1
      result := c.job.result.complete signature c.job.copyInHand } } := by
  have hreport : c.report (RunningResult.complete signature c.job.copyInHand)
      = { c with job := { c.job with result := c.job.result.complete signature c.job.copyInHand } } := by
    rw [Chip.report_eq, if_neg (by rw [ht]; exact Option.some_ne_none _)]
  have hrunning : c.engine.state ≠ .stopping := by
    rw [hs]
    exact EngineState.noConfusion
  unfold Chip.copyComplete
  split
  · next hnone => exact nomatch ht.symm.trans hnone
  · next t' ht' =>
    obtain rfl : t = t' := Option.some.inj (ht.symm.trans ht')
    simp only [hreport]
    rw [if_neg, if_neg, Chip.afterCopy_none, Chip.settleJobState_current]
    · rw [ht]
      exact Option.some_ne_none _
    · exact hrunning
    · exact hp
    · exact hrunning
    · exact hmore

/-- Settles O39: the burn ends, and the copy of its LAST line completes. -/
theorem lastBurnCompletesCopy : Obligations.LastBurnCompletesCopy := by
  intro s plan r t hr hplan hlatched hlast ht hmore hrunning hop hpresentation hreach
  have hended := Chip.endBurn_latched (c := s.chip.advanceTo plan.burnEnd) hlatched (Chip.checkDwell_idle hop)
  rw [hlast, if_pos rfl, Chip.copyComplete_more (t := t)] at hended
  · exact execBurnEnd_ends hr hplan hended (Chip.portInReach_of_port s.chip _ hreach rfl rfl)
  · exact ht
  · exact hmore
  · exact hrunning
  · exact hpresentation

end Sys2Proof.Machine
end

section
/-! The line start (R109) and the pace of a print (R134). -/

namespace Sys2Proof.Machine

open Sys2Proof

/-! ### The signature -/

/-- The bits of a byte, the most significant one first, are its parts. -/
theorem toNat_byteOf (f : Nat → Bool) :
    (BitVec.ofFnLE fun i : Fin 8 => f (7 - i)).toNat
      = ((List.range 8).map fun j => if f j then 2 ^ (7 - j) else 0).sum := by
  have hbit : ∀ (j n : Nat), (if f j then n else 0) = (f j).toNat * n := fun j n => by cases f j <;> simp
  rw [BitVec.toNat_ofFnLE]
  simp only [hbit, Nat.ofBits_succ, Nat.ofBits_zero, Function.comp, List.range, List.range.loop, List.map_cons,
    List.map_nil, List.sum_cons, List.sum_nil]
  simp only [Fin.val_zero, Fin.val_succ, Nat.sub_zero, Nat.reduceAdd, Nat.reduceSub, Nat.reducePow]
  omega

/-- The signature sums of a line, from its dots (R121). -/
def signatureSums (dots : Dots) (sums : Nat × Nat) : Nat × Nat :=
  let byteOf := fun k => ((List.range 8).map fun j => if hasDot dots (8 * k + j) then 2 ^ (7 - j) else 0).sum
  (List.range 160).foldl (fun x k => ((x.1 + byteOf k) % 255, (x.2 + (x.1 + byteOf k) % 255) % 255)) sums

theorem addToSums_eq_foldl (bytes : List Byte) (sums : Nat × Nat) :
    addToSums bytes sums
      = bytes.foldl (fun x b => ((x.1 + b.toNat) % 255, (x.2 + (x.1 + b.toNat) % 255) % 255)) sums := by
  induction bytes generalizing sums with
  | nil => rfl
  | cons b bytes ih => exact ih _

theorem addToSums_rowBytes (dots : Dots) (sums : Nat × Nat) :
    addToSums (rowBytes dots) sums = signatureSums dots sums := by
  have hbyte : ∀ k : Nat, (BitVec.ofFnLE fun i : Fin 8 => dots.getLsbD (8 * k + (7 - i))).toNat
      = ((List.range 8).map fun j => if hasDot dots (8 * k + j) then 2 ^ (7 - j) else 0).sum :=
    fun k => toNat_byteOf fun j => dots.getLsbD (8 * k + j)
  rw [addToSums_eq_foldl, rowBytes, List.foldl_map]
  simp only [hbyte]
  rfl

/-! ### The burn of a line -/

/-- The history rows stay while the last line start lies no more than History Expiry back (R111). -/
def BurnController.keepsHistory (now : Nat) (b : BurnController) : Bool :=
  match b.lastLineStart with
  | none => false
  | some at0 => decide (now - at0 ≤ 1000 * b.values.historyExpiry)

theorem BurnController.historyExpired_eq (now : Nat) (b : BurnController) :
    b.historyExpired now = !b.keepsHistory now := by
  unfold BurnController.historyExpired BurnController.keepsHistory
  cases b.lastLineStart with
  | none => rfl
  | some at0 => simp only [← decide_not, Nat.not_le]

theorem BurnController.latch_eq (now : Nat) (r : LineRecord) (b : BurnController) :
    let sums := signatureSums r.dots (if r.first then (0, 0) else (b.byteSum, b.runningTotal))
    b.latch now r = { b with
      register := none, latched := some r, lastCopy := r.copy, lastLine := r.line
      previousRow := if b.keepsHistory now then b.previousRow else 0
      rowBefore := if b.keepsHistory now then b.rowBefore else 0
      lastLineStart := some now, byteSum := sums.1, runningTotal := sums.2 } := by
  have hsums : b.sumsWith r = signatureSums r.dots (if r.first then (0, 0) else (b.byteSum, b.runningTotal)) :=
    addToSums_rowBytes _ _
  simp only [BurnController.latch, hsums, BurnController.historyExpired_eq]
  cases b.keepsHistory now <;> rfl

/-- The phases of a burn with four phase times, from the times (R118). -/
theorem burnPhases_four (n a b c d : Nat) :
    burnPhases n [a, b, c, d] = (List.range n).flatMap fun g =>
      ((List.range 4).filter fun k => decide ([a, b, c, d].getD k 0 ≠ 0)).map fun k =>
        { group := g, phase := k, time := [a, b, c, d].getD k 0 } := by
  have hplaces : [a, b, c, d].zipIdx = (List.range 4).map fun k => ([a, b, c, d].getD k 0, k) := rfl
  simp only [burnPhases, hplaces, List.filter_map, List.map_map]
  rfl

/-- The part at a line start: its record latched, its burn planned, and a line split into groups counted (R109,
R119). -/
def Chip.started (r : LineRecord) (plan : Option BurnPlan) (c : Chip) : Chip :=
  { c with
    burn := { c.burn.latch c.now r with plan := plan }
    job := { c.job with result :=
      if c.job.current ≠ none ∧ 1 < (burnGroups c.burn.values.powerBudget r.dots).length then
        { c.job.result with splitLines := min 255 (c.job.result.splitLines + 1) }
      else c.job.result } }

/-- A burn in which no phase has a time ends at once (R109, R118). -/
theorem Chip.lineStart_shifted {c : Chip} {r : LineRecord} (h : c.burn.register = some (r, .shifted)) (period : Nat) :
    c.lineStart period = match (c.burn.latch c.now r).planFor c.now c.scanner.therm.toNat period r with
      | some plan => c.started r (some plan)
      | none => (c.started r none).endBurn := by
  have hsplit : ∀ plan : Option BurnPlan,
      (if 1 < (burnGroups c.burn.values.powerBudget r.dots).length then
        ({ c with burn := { c.burn.latch c.now r with plan := plan } } : Chip).report fun x =>
          { x with splitLines := saturate8 (x.splitLines + 1) }
      else { c with burn := { c.burn.latch c.now r with plan := plan } }) = c.started r plan := by
    intro plan
    by_cases hgroups : 1 < (burnGroups c.burn.values.powerBudget r.dots).length
    · simp only [Chip.started, Chip.report_eq, hgroups, and_true, ne_eq, ite_not, if_true]
      rfl
    · simp only [Chip.started, hgroups, and_false, if_false]
  simp only [Chip.lineStart, h]
  generalize (c.burn.latch c.now r).planFor c.now c.scanner.therm.toNat period r = plan
  cases plan with
  | none => exact congrArg Chip.endBurn (hsplit none)
  | some plan => exact hsplit (some plan)

/-- With Motion under way, a burn of no time that is not a copy's LAST line moves the history on at once (R120). -/
theorem Chip.started_ends {c : Chip} {r : LineRecord} (htimer : c.motion.timer ≠ .expired) (hlast : r.last = false) :
    (c.started r none).endBurn = (c.started r none).burned r := by
  have hended := Chip.endBurn_latched (c := c.started r none) (r := r) rfl (if_neg fun hdwell => htimer hdwell.2.1)
  rwa [hlast, if_neg Bool.false_ne_true] at hended

/-- The burn that a line start leaves, by the phases that have a time (R118, R120). -/
def BurnController.burning (now code period : Nat) (r : LineRecord) (b : BurnController) :
    List BurnPhase → BurnController
  | [] => { b with previousRow := r.dots, rowBefore := b.previousRow }
  | q :: left =>
    let time := b.values.burnTime b.darkness code period
    { b with plan := some {
      burnTime := time, phases := phaseTimes b.values.historyFactors time
      groups := burnGroups b.values.powerBudget r.dots, previous := b.previousRow, before := b.rowBefore
      now := q, phaseEnd := now + q.time, left := left } }

/-- A line start with Motion under way and no burn in hand (R109). -/
theorem Chip.lineStart_burning {c : Chip} {r : LineRecord} {phases : List BurnPhase}
    (h : c.burn.register = some (r, .shifted)) (htimer : c.motion.timer ≠ .expired) (hplan : c.burn.plan = none)
    (period : Nat)
    (hphases : burnPhases (burnGroups c.burn.values.powerBudget r.dots).length (phaseTimes c.burn.values.historyFactors
      (c.burn.values.burnTime c.burn.darkness c.scanner.therm.toNat period)) = phases)
    (hempty : phases = [] → r.last = false) :
    c.lineStart period = { c.started r none with
      burn := (c.burn.latch c.now r).burning c.now c.scanner.therm.toNat period r phases } := by
  rw [Chip.lineStart_shifted h]
  cases phases with
  | nil =>
    have hnone : (c.burn.latch c.now r).planFor c.now c.scanner.therm.toNat period r = none := by
      unfold BurnController.planFor
      dsimp only
      split
      · rfl
      · next hq => exact nomatch hphases.symm.trans hq
    rw [hnone]
    refine (Chip.started_ends htimer (hempty rfl)).trans ?_
    have hlatch : (c.burn.latch c.now r).plan = none := hplan
    simp only [Chip.burned, Chip.started, BurnController.burning, hlatch]
  | cons q left =>
    have hsome : (c.burn.latch c.now r).planFor c.now c.scanner.therm.toNat period r
        = ((c.burn.latch c.now r).burning c.now c.scanner.therm.toNat period r (q :: left)).plan := by
      unfold BurnController.planFor
      dsimp only
      split
      · next hq => exact nomatch hphases.symm.trans hq
      · next q' left' hq =>
        obtain ⟨rfl, rfl⟩ := List.cons.inj (hphases.symm.trans hq)
        rfl
    rw [hsome]
    rfl

/-! ### The pace -/

theorem MotionController.paceLine_eq (level : Nat) (m : MotionController) : m.paceLine level = { m with
    speedStep := (m.paceLine level).speedStep, rampCount := (m.paceLine level).rampCount
    stretchMark := (m.paceLine level).stretchMark } := by
  unfold MotionController.paceLine MotionController.ramp
  repeat' split
  all_goals rfl

section
variable {m : MotionController} {level : Nat}

theorem MotionController.paceLine_slows (h : m.stretchMark = true ∨ level < 8) :
    m.paceLine level = { m with speedStep := m.speedStep - 1, rampCount := 0, stretchMark := false } :=
  if_pos h

theorem MotionController.paceLine_kept (hs : m.stretchMark = false) (hl : 8 ≤ level) :
    m.paceLine level = if m.values.target < m.speedStep then { m with speedStep := m.speedStep - 1, rampCount := 0 }
      else if 16 ≤ level ∧ m.speedStep < m.values.target then m.ramp else m :=
  if_neg fun h => h.elim (fun hmark => Bool.noConfusion (hs.symm.trans hmark)) (Nat.not_lt.2 hl)

theorem MotionController.ramp_le (h : m.speedStep < m.values.target) : m.ramp.speedStep ≤ m.values.target := by
  unfold MotionController.ramp
  split
  · exact h
  · exact Nat.le_of_lt h

/-- The pace never passes its target from below (R134). -/
theorem MotionController.paceLine_le (h : m.speedStep ≤ m.values.target) (level : Nat) :
    (m.paceLine level).speedStep ≤ m.values.target := by
  unfold MotionController.paceLine
  split
  · exact Nat.le_trans (Nat.sub_le _ _) h
  · split
    · exact Nat.le_trans (Nat.sub_le _ _) h
    · split
      · next hramp => exact MotionController.ramp_le hramp.2
      · exact h

end

/-- A line step of a print from FORWARD, on a paced Motion (R131, R134). -/
def MotionController.linePaced (now level next last : Nat) (m : MotionController) : MotionController :=
  let paced := m.paceLine level
  let period := m.values.speedTable.getD paced.speedStep 250
  { m with
    phase := m.phase + 1, position := m.position + 1
    speedStep := paced.speedStep, rampCount := paced.rampCount, stretchMark := paced.stretchMark
    timer := .running period (now + period), operation := .print (next + 1) last }

theorem MotionController.stepForward_operation (now level : Nat) (m : MotionController) :
    (m.stepForward now level).operation = m.operation := by
  unfold MotionController.stepForward MotionController.paceLine MotionController.paceFeed MotionController.ramp
  repeat' split
  all_goals rfl

theorem MotionController.stepForward_line {m : MotionController} {next last : Nat}
    (hop : m.operation = .print next last) (hs : m.state = .forward) (now level : Nat) :
    { m.stepForward now level with operation := .print (next + 1) last } = m.linePaced now level next last := by
  have hline : m.nextIsLine = true := by simp only [MotionController.nextIsLine, hop]
  have hmoving : ¬ (m.state = .still ∨ m.state = .dwell) := by simp [hs]
  simp only [MotionController.stepForward, if_neg hmoving, hline, if_true]
  rw [MotionController.paceLine_eq]
  simp only [MotionController.linePaced, MotionController.periodOf, hs]

theorem Chip.progress_print {c : Chip} {next last : Nat} (h : c.motion.operation = .print next last)
    (hlast : next < last) :
    c.progress = { c with motion := { c.motion with operation := .print (next + 1) last } } := by
  simp only [Chip.progress, h, if_neg (Nat.not_le.2 hlast)]

theorem Chip.ribbonLine_direct {c : Chip} (h : c.scanner.values.printMethod = .direct) (first : Bool) :
    c.ribbonLine first = c := if_pos h

/-- A line step of a print is its line start, on the motion of the step and its MEDIA request (R131). -/
theorem Chip.forwardStep_print {c : Chip} {next last d : Nat} (hop : c.motion.operation = .print next last)
    (hlast : next < last) (hs : c.motion.state = .forward) (hconv : c.scanner.converter = .converting .therm d) :
    c.forwardStep = (({ c with
      motion := c.motion.linePaced c.now c.composer.store.length next last
      scanner := { c.scanner with
        converter := .converting (.media (c.motion.position + 1) false) (c.now + 10) } } : Chip).lineStart
      (c.motion.values.speedTable.getD (c.motion.paceLine c.composer.store.length).speedStep 250)).ribbonLine false := by
  let m := c.motion.stepForward c.now c.composer.store.length
  have hline : c.motion.nextIsLine = true := by simp only [MotionController.nextIsLine, hop]
  have hmarks : c.motion.operation.marks = false := by rw [hop]; rfl
  have hfirst : c.motion.operation.isAlign = false := by rw [hop]; rfl
  have hpaced := MotionController.stepForward_line hop hs c.now c.composer.store.length
  have hposition : m.position = c.motion.position + 1 := congrArg MotionController.position hpaced
  have hperiod : m.periodOf m.speedStep
      = c.motion.values.speedTable.getD (c.motion.paceLine c.composer.store.length).speedStep 250 :=
    congrArg (fun m : MotionController => m.values.speedTable.getD m.speedStep 250) hpaced
  have hkept : m.operation = .print next last := (c.motion.stepForward_operation _ _).trans hop
  simp only [Chip.forwardStep, hline, hmarks, hfirst, if_true, SensorScanner.request_therm hconv]
  rw [Chip.progress_print hkept hlast]
  show ((_ : Chip).lineStart (m.periodOf m.speedStep)).ribbonLine false = _
  rw [hperiod, hpaced, hposition]
  rfl

/-- Settles O46: the paced step is a line start, and the pace rule is its cases. -/
theorem lineStepIsPacedAndStartsBurn : Obligations.LineStepIsPacedAndStartsBurn := by
  refine ⟨?_, fun m level => ⟨MotionController.paceLine_slows, fun hs hl hfast => ?_, fun hs hl hslow => ?_,
    fun hs hl hlow hle => ?_, fun hs hl heq => ?_, fun hle => MotionController.paceLine_le hle level⟩⟩
  · intro s next last r d hr hop hlast hs htimer hplan hgate hregister hdirect hconv hreach paced
      period b keeps previous before byteOf sums time f times groups phases latched burnAfter hempty
    have hmay : s.chip.mayStep = true := by
      simp [Chip.mayStep, hop, Operation.wantsForward, MotionController.timerAllows, hs, htimer, hplan, hgate,
        BurnController.state, hregister]
    let stepped : Chip := { s.chip with
      motion := s.chip.motion.linePaced s.chip.now s.chip.composer.store.length next last
      scanner := { s.chip.scanner with
        converter := .converting (.media (s.chip.motion.position + 1) false) (s.chip.now + 10) } }
    have hlatched : s.chip.burn.latch s.chip.now r = latched := BurnController.latch_eq _ _ _
    have hstarted : s.chip.forwardStep = { stepped.started r none with burn := burnAfter } := by
      have hstart := Chip.lineStart_burning (c := stepped) hregister PeriodTimer.noConfusion hplan period
        (burnPhases_four _ _ _ _ _) hempty
      rw [Chip.forwardStep_print hop hlast hs hconv]
      refine (congrArg (Chip.ribbonLine false) hstart).trans ((Chip.ribbonLine_direct ?_ _).trans ?_)
      · exact hdirect
      · have hburning : latched.burning s.chip.now s.chip.scanner.therm.toNat period r phases = burnAfter := by
          simp only [burnAfter]
          cases phases <;> rfl
        exact congrArg (fun b => ({ stepped.started r none with burn := b } : Chip))
          ((congrArg (BurnController.burning s.chip.now s.chip.scanner.therm.toNat period r · phases) hlatched).trans
            hburning)
    have hin : s.chip.forwardStep.portInReach = true := by
      rw [hstarted]
      exact Chip.portInReach_of_port s.chip _ hreach rfl rfl
    obtain ⟨p, hexec, hasked⟩ := State.event_asked (f := Chip.forwardStep) hr hmay hin
    rw [hstarted] at hexec hasked
    exact ⟨p, hexec, hasked⟩
  · exact (MotionController.paceLine_kept hs hl).trans (if_pos hfast)
  · rw [MotionController.paceLine_kept hs (by omega), if_neg (by omega), if_pos ⟨hl, hslow⟩]
    rfl
  · rw [MotionController.paceLine_kept hs hl, if_neg (by omega), if_neg (by omega)]
  · rw [MotionController.paceLine_kept hs hl, if_neg (by omega), if_neg (by omega)]

end Sys2Proof.Machine
end

section
/-! The composition of a line (R55, R56, R59): the RULEs that enter, the active objects drawn in the order of their
index, and what becomes of the completed line (R66 to R68). -/

namespace Sys2Proof.Machine

open Sys2Proof

/-! ### Entering -/

/-- A context takes the place of its object index (R56). -/
theorem insertContext_eq (c : ObjectContext) (l : List ObjectContext) :
    insertContext c l = l.takeWhile (fun a => decide (a.index ≤ c.index))
      ++ c :: l.dropWhile fun a => decide (a.index ≤ c.index) := by
  induction l with
  | nil => rfl
  | cons a l ih =>
    by_cases h : c.index < a.index
    · simp [insertContext, h]
    · simp [insertContext, h, Nat.not_lt.1 h, ih]

theorem insertContext_length (c : ObjectContext) (l : List ObjectContext) :
    (insertContext c l).length = l.length + 1 := by
  induction l with
  | nil => rfl
  | cons a l ih =>
    unfold insertContext
    split
    · rfl
    · exact congrArg (· + 1) ih

/-- The RULE that enters for an entry, with its border, where its object is one. -/
def ruleIn (objects : List PrintObject) (e : PendingEntry) : Option (PrintObject × Nat) :=
  match objects[e.index]? with
  | none => none
  | some o =>
    match o.body with
    | .rule _ _ border => some (o, border)
    | _ => none

/-- The contexts of the RULEs that enter, in the order of their entries (R56, R58). -/
def ruleContexts (objects : List PrintObject) (entries : List PendingEntry) : List ObjectContext :=
  entries.filterMap fun e => (ruleIn objects e).map fun x => contextOf x.1 e (.rule x.2)

theorem ruleIn_some {objects : List PrintObject} {e : PendingEntry} (h : (ruleIn objects e).isSome = true) :
    ∃ o w k border, objects[e.index]? = some o ∧ o.body = .rule w k border ∧ ruleIn objects e = some (o, border) := by
  unfold ruleIn at h ⊢
  split at h
  · exact absurd h Bool.false_ne_true
  · next o ho =>
    split at h
    · next w k border hbody => exact ⟨o, w, k, border, ho, hbody, rfl⟩
    · exact absurd h Bool.false_ne_true

/-- With room for all of them, the RULEs of a line enter and nothing is reported of them (R56). -/
theorem enterFrom_rules (g : CopyGeometry) (resources : List ResourceEntry) (bad : Dots) (objects : List PrintObject)
    (todo : List PendingEntry) (active : List ObjectContext) (tally : Tally)
    (h : ∀ e ∈ todo, (ruleIn objects e).isSome = true ∧ active.length + todo.length ≤ 24) :
    enterFrom g resources bad objects todo active tally
      = .done ((ruleContexts objects todo).foldl (fun l c => insertContext c l) active) tally := by
  induction todo generalizing active with
  | nil => rfl
  | cons e todo ih =>
    obtain ⟨hrule, hroom⟩ := h e List.mem_cons_self
    obtain ⟨o, w, k, border, ho, hbody, hin⟩ := ruleIn_some hrule
    have hfits : ¬ Config.activeCapacity ≤ active.length := by
      rw [List.length_cons] at hroom
      show ¬ 24 ≤ active.length
      omega
    have hstrip : ¬ (o.hasStrip = true ∧ headerReadable resources o = true) := by
      simp [PrintObject.hasStrip, hbody]
    have hdirect : enterDirect g resources bad o = some (.rule border, 0) := by
      simp only [enterDirect, hbody]
    have hcontexts : ruleContexts objects (e :: todo)
        = contextOf o e (.rule border) :: ruleContexts objects todo := by
      simp [ruleContexts, hin]
    rw [enterFrom, if_neg hfits, ho, hcontexts, List.foldl_cons, ← ih]
    · simp only [if_neg hstrip, hdirect]
      rfl
    · intro e' he'
      refine ⟨(h e' (List.mem_cons_of_mem _ he')).1, ?_⟩
      rw [insertContext_length]
      rw [List.length_cons] at hroom
      omega

/-! ### Drawing -/

theorem find?_index {active : List ObjectContext} (h : (active.map ObjectContext.index).Nodup) {o : ObjectContext}
    (ho : o ∈ active) : (active.find? fun c => c.index == o.index) = some o := by
  cases hfind : active.find? fun c => c.index == o.index with
  | none => exact absurd (List.find?_eq_none.1 hfind o ho) (by simp)
  | some x =>
    have hindex : x.index = o.index := by simpa using List.find?_some hfind
    rw [List.inj_on_of_nodup_map h (List.mem_of_find?_eq_some hfind) ho hindex]

/-- Objects that need no read are applied one after another (R59). -/
theorem drawFrom_held {g : CopyGeometry} {p : Nat} {active : List ObjectContext}
    (hn : (active.map ObjectContext.index).Nodup) (hread : ∀ o ∈ active, o.mustRead g p = none)
    (todo : List ObjectContext) (hmem : ∀ o ∈ todo, o ∈ active) (line : Dots) :
    drawFrom g p active (todo.map ObjectContext.index) line
      = .done (todo.foldl (fun line o => o.applyTo g p line) line) := by
  induction todo generalizing line with
  | nil => rfl
  | cons o todo ih =>
    have ho : o ∈ active := hmem o List.mem_cons_self
    rw [List.map_cons, drawFrom, find?_index hn ho]
    simp only [hread o ho]
    exact ih (fun o' h => hmem o' (List.mem_cons_of_mem _ h)) _

/-! ### The line -/

theorem RunningResult.take_zero {r : RunningResult} (h : r.saturated = true) : r.take .zero = r := by
  have hstands : ∀ n, n ≤ 255 → saturate8 (n + 0) = n := fun n hn => Nat.min_eq_right hn
  simp only [RunningResult.saturated, Bool.and_eq_true, decide_eq_true_eq] at h
  obtain ⟨⟨⟨⟨⟨⟨homitted, hmissing⟩, -⟩, -⟩, hbad⟩, -⟩, -⟩ := h
  simp only [RunningResult.take, Tally.zero, hstands _ homitted, hstands _ hmissing, hstands _ hbad]

theorem Chip.report_take_zero {c : Chip} (h : c.job.result.saturated = true) :
    c.report (RunningResult.take .zero) = c := by
  rw [Chip.report_eq, RunningResult.take_zero h, ite_self]

/-- A line for which the RULEs enter and no source is read is completed at once (R55). -/
theorem Chip.composeLine_completes {c : Chip} {g : CopyGeometry} (hg : c.composer.copy = some g)
    (hw : c.composer.work = .ready) (hsat : c.job.result.saturated = true)
    {staying active : List ObjectContext} {entering : List PendingEntry}
    (hstaying : staying = c.composer.activeList.filter fun o => decide (o.leaveLine + 1 ≠ c.composer.nextLine))
    (hentering : entering = c.composer.pendingList.filter fun e => decide (e.entryLine = c.composer.nextLine))
    (hactive : active = (ruleContexts c.objects entering).foldl (fun l c => insertContext c l) staying)
    (hrules : ∀ e ∈ entering, (ruleIn c.objects e).isSome = true ∧ staying.length + entering.length ≤ 24)
    (hn : (active.map ObjectContext.index).Nodup) (hread : ∀ o ∈ active, o.mustRead g c.composer.nextLine = none) :
    c.composeLine = ({ c with composer := { c.composer with
        activeList := active
        pendingList := c.composer.pendingList.filter fun e => decide (e.entryLine ≠ c.composer.nextLine) } } : Chip).completeLine
      (lineRecord g c.composer.nextLine (active.foldl (fun line o => o.applyTo g c.composer.nextLine line) 0)) := by
  let c1 : Chip := { c with composer := { c.composer with activeList := staying } }
  have hline : c.composeLine = c1.continueEnter g entering := by
    simp only [Chip.composeLine, hg, hw, c1, hstaying, hentering]
  have hentered := enterFrom_rules g c1.job.resources c1.protection.badDots c.objects entering staying .zero hrules
  rw [← hactive] at hentered
  have hreported : c1.report (RunningResult.take .zero) = c1 := Chip.report_take_zero hsat
  have hdrawn := drawFrom_held hn hread active (fun _ h => h) 0
  rw [hline, Chip.continueEnter]
  dsimp only
  rw [show enterFrom g c1.job.resources c1.protection.badDots c1.objects entering c1.composer.activeList .zero = _ from
    hentered]
  dsimp only
  rw [hreported, Chip.continueDraw]
  dsimp only
  rw [hdrawn]
  rfl

/-- The next copy of the current ticket follows the LAST line of one in RUNNING (R68, R32). -/
def Chip.nextCopyFollows (copy : Nat) (c : Chip) : Prop :=
  c.engine.state = .running ∧ (c.job.current.any fun t => decide (copy < t.copies)) = true

/-- After its copy's LAST line the Composer is IDLE with its Line Store (R68). -/
def Chip.copyComposed (store : List LineRecord) (c : Chip) : Chip :=
  { c with composer := { Composer.reset with store := store } }

theorem Chip.appendLine_last {r : LineRecord} (h : r.last = true) (c : Chip) :
    let d := c.copyComposed (c.composer.store ++ [r])
    (c.nextCopyFollows r.copy → c.appendLine r
      = ({ d with job := { d.job with compositionStart := some (r.copy + 1) } } : Chip).ask .job
        (readAccess (.resourceTable (r.copy + 1)) (.area 0x0B0) 256))
    ∧ (¬ c.nextCopyFollows r.copy → c.appendLine r = d) := by
  intro d
  unfold Chip.appendLine Chip.nextCopyFollows
  rw [if_pos h]
  cases hcurrent : c.job.current with
  | none => exact ⟨fun hnext => absurd hnext.2 Bool.false_ne_true, fun _ => rfl⟩
  | some t =>
    refine ⟨fun hnext => ?_, fun hnext => ?_⟩
    · have hcopies : r.copy < t.copies := by simpa using hnext.2
      dsimp only
      rw [if_pos hcopies]
      exact Chip.startComposition_given (c := d) hnext.1 rfl _
    · dsimp only
      split
      · next hcopies =>
        refine if_neg fun hgiven => hnext ⟨hgiven.1, ?_⟩
        simpa using hcopies
      · rfl

/-- Settles O32: the line is completed at once, and is held, ends its copy, or is followed by the next. -/
theorem composeLineDrawsActiveObjects : Obligations.ComposeLineDrawsActiveObjects := by
  intro s g hr hg hw hsat hreach harea p staying entering ruleOf contexts active r room more hrules hn hread composer
  have hrule : ruleOf = ruleIn s.chip.objects := by
    funext e
    simp only [ruleOf, ruleIn, Chip.objects]
    cases s.chip.job.current <;> rfl
  have hactive : active = (ruleContexts s.chip.objects entering).foldl (fun l c => insertContext c l) staying := by
    simp only [insertContext_eq, ruleContexts, ← hrule]
    rfl
  rw [hrule] at hrules
  let c : Chip := { s.chip with composer := composer }
  have hline : s.chip.composeLine = c.completeLine r :=
    Chip.composeLine_completes hg hw hsat rfl rfl hactive hrules hn hread
  have hnext : s.chip.composer.hasNext = true := by simp [Composer.hasNext, hg, hw]
  have hin : c.portInReach = true := Chip.portInReach_of_port s.chip _ hreach rfl rfl
  have hsteps : ∀ d : Chip, s.chip.composeLine = d → d.portInReach = true → ∃ q, exec .composeLine s
      = .next { s with chip := { d with port := q } } ∧ ∀ k, q.asked k = d.port.asked k := by
    rintro d rfl hd
    exact State.event_asked (f := Chip.composeLine) hr hnext hd
  by_cases hroom : room
  · have happended : s.chip.composeLine = c.appendLine r := hline.trans (if_pos hroom)
    rw [if_neg (not_not.2 hroom)]
    by_cases hlast : r.last = true
    · obtain ⟨hfollows, hends⟩ := Chip.appendLine_last hlast c
      let d := c.copyComposed (s.chip.composer.store ++ [r])
      have hind : d.portInReach = true := Chip.portInReach_of_port c _ hin rfl rfl
      rw [if_pos hlast]
      by_cases hnextCopy : c.nextCopyFollows r.copy
      · have hmore : more := ⟨hroom, hlast, hnextCopy⟩
        obtain ⟨q, hexec, hasked⟩ := hsteps _ (happended.trans (hfollows hnextCopy)) (Chip.portInReach_ask _ _ _
          (Chip.portInReach_of_port d _ hind rfl rfl) (EngineControl.reaches_area harea _ _ _ (by omega)))
        rw [if_pos hmore, if_pos hmore]
        refine ⟨q, hexec, (hasked .job).trans ?_, (hasked .composer).trans ?_, (hasked .engine).trans ?_⟩
        · exact Chip.ask_asked_same _ _ _
        · exact Chip.ask_asked_other _ _ _ _ (by decide)
        · exact Chip.ask_asked_other _ _ _ _ (by decide)
      · have hmore : ¬ more := fun h => hnextCopy h.2.2
        obtain ⟨q, hexec, hasked⟩ := hsteps _ (happended.trans (hends hnextCopy)) hind
        rw [if_neg hmore, if_neg hmore, List.append_nil]
        exact ⟨q, hexec, hasked .job, hasked .composer, hasked .engine⟩
    · have hmore : ¬ more := fun h => hlast h.2.1
      have hline := Chip.appendLine_more (Bool.eq_false_iff.2 hlast) c
      obtain ⟨q, hexec, hasked⟩ := hsteps _ (happended.trans hline) (Chip.portInReach_of_port c _ hin rfl rfl)
      rw [if_neg hmore, if_neg hmore, if_neg hlast, List.append_nil]
      exact ⟨q, hexec, hasked .job, hasked .composer, hasked .engine⟩
  · have hheld := hline.trans (if_neg hroom)
    obtain ⟨q, hexec, hasked⟩ := hsteps _ hheld (Chip.portInReach_of_port c _ hin rfl rfl)
    have hmore : ¬ more := fun h => hroom h.1
    rw [if_neg hmore, if_neg hmore, if_pos hroom, List.append_nil]
    exact ⟨q, hexec, hasked .job, hasked .composer, hasked .engine⟩

end Sys2Proof.Machine
end
